-- ==== Sys2Proof/Word.lean ====
section
/-! DEFINITION. The widths of the values the block holds (spec/00_scope.md R7 to R14). -/

namespace Sys2Proof

/-- One byte of the PCM stream: the width of `in_byte` and of a carry register (R31, R45). -/
abbrev Byte := BitVec 8

/-- One packed stereo frame, left sample in the high half (R9, R73): a FIFO entry and the `frame` register. -/
abbrev FrameWord := BitVec 32

/-- A counter of COUNTER_WIDTH = 32 bits (R12). -/
abbrev Count32 := BitVec 32

/-- The input vector `I[13:0]` of one step (R114). -/
abbrev InputWord := BitVec 14

/-- The 4-bit bit index `idx[3:0]` (R35). -/
abbrev BitIndex := BitVec 4

end Sys2Proof
end

