-- ==== Sys2Proof/Config.lean ====
section
/-! DEFINITION. What an implementation of the block fixes (the two OPEN parameters of spec/00_scope.md R10 and R11)
and the free values of the model. -/

namespace Sys2Proof

/-- The OPEN parameters of the block (R10, R11). They are carried in the machine's state, which no step changes, so that every
definition and every statement is made for all values of them: notes/assumptions/1.md. -/
structure Params where
  /-- `FIFO_DEPTH`, written `C`: the number of frame words the FIFO holds (R10). -/
  fifoDepth : Nat
  /-- `SYNC_STAGES`, written `N`: the flip-flops each pin passes through (R11). -/
  syncStages : Nat
  deriving DecidableEq, Repr

/-- The parameters the plain `State.reset` is made with: `N = 2`, the spec's suggested default (R11), and `C = 4`, a DESIGN CHOICE
(R10 leaves `C` open): notes/assumptions/1.md. -/
def Params.sample : Params := { fifoDepth := 4, syncStages := 2 }

namespace Config

/-- FREE VALUE. What slot `p` of the FIFO storage holds before anything has written it: unspecified (R42, R240, X4).
notes/assumptions/2.md. -/
opaque unwrittenSlot : Nat → FrameWord

/-- FREE VALUE. The environment's free draw of the `k`-th input vector that no stimulus lists (R32).
notes/assumptions/3.md. -/
opaque freeInput : Nat → InputWord

end Config

end Sys2Proof
end

