-- ==== Sys2Proof/Syntax.lean ====
section
/-! DEFINITION. The operations of the block: one constructor per row of spec/opcode_table.json (spec/30_encoding.md R100 to R109). -/

namespace Sys2Proof

/-- The four selector words of a step (R101, R102, R107, R109). -/
inductive Format where
  /-- The global selector `G[0]` (R101). -/
  | global
  /-- The follower selector `F[9:0]` (R102). -/
  | follower
  /-- The assembler selector `A[4:0]` (R107). -/
  | assembler
  /-- The FIFO selector `P[1:0]` (R109). -/
  | fifo
  deriving DecidableEq, Repr

/-- The operations. A selector carries no operand (R103). The argument `x` of a constructor holds the selector bits that its row
does NOT test (the `x` of the row's pattern in R104 and R108), highest first; no meaning reads it. It is kept so that an
instruction stands for one selector word and the encoder gives that word back. -/
inductive Instr where
  -- global operations (R101)
  | reset
  | step
  -- follower operations (R104)
  | fHold (x : BitVec 9)        -- 0xxxxxxxxx: fsm phase fv ne ws ri fa iz
  | awlStarve (x : BitVec 5)    -- 100x00xxxx: phase ws ri fa iz
  | awlPop (x : BitVec 4)       -- 100x011xxx: phase ri fa iz
  | awlPopStart (x : BitVec 4)  -- 100x010xxx: phase ri fa iz
  | awlWait (x : BitVec 5)      -- 100x1x1xxx: phase ne ri fa iz
  | awlStart (x : BitVec 5)     -- 100x1x0xxx: phase ne ri fa iz
  | slWaitRise (x : BitVec 5)   -- 1010xxx0xx: fv ne ws fa iz
  | slPresent (x : BitVec 5)    -- 1010xxx1xx: fv ne ws fa iz
  | slWaitFall (x : BitVec 5)   -- 1011xxxx0x: fv ne ws ri iz
  | slNext (x : BitVec 4)       -- 1011xxxx10: fv ne ws ri
  | slLast (x : BitVec 4)       -- 1011xxxx11: fv ne ws ri
  | awhWait (x : BitVec 6)      -- 110xxx0xxx: phase fv ne ri fa iz
  | awhStart (x : BitVec 6)     -- 110xxx1xxx: phase fv ne ri fa iz
  | srWaitRise (x : BitVec 5)   -- 1110xxx0xx: fv ne ws fa iz
  | srPresent (x : BitVec 5)    -- 1110xxx1xx: fv ne ws fa iz
  | srWaitFall (x : BitVec 5)   -- 1111xxxx0x: fv ne ws ri iz
  | srNext (x : BitVec 4)       -- 1111xxxx10: fv ne ws ri
  | srLast (x : BitVec 4)       -- 1111xxxx11: fv ne ws ri
  -- assembler operations (R108)
  | aClosed (x : BitVec 4)      -- 1xxxx: eo iv b3 nf
  | aEos (x : BitVec 3)         -- 01xxx: iv b3 nf
  | aIdle (x : BitVec 2)        -- 000xx: b3 nf
  | aAccept (x : BitVec 1)      -- 0010x: nf
  | aComplete                   -- 00111
  | aStall                      -- 00110
  -- FIFO operations (R109)
  | fifoIdle                    -- 00
  | fifoPush                    -- 10
  | fifoPop                     -- 01
  | fifoPushPop                 -- 11
  deriving DecidableEq, Repr

/-- The table an operation stands in (R100). -/
def Instr.format : Instr → Format
  | .reset | .step => .global
  | .fHold _ | .awlStarve _ | .awlPop _ | .awlPopStart _ | .awlWait _ | .awlStart _ => .follower
  | .slWaitRise _ | .slPresent _ | .slWaitFall _ | .slNext _ | .slLast _ => .follower
  | .awhWait _ | .awhStart _ => .follower
  | .srWaitRise _ | .srPresent _ | .srWaitFall _ | .srNext _ | .srLast _ => .follower
  | .aClosed _ | .aEos _ | .aIdle _ | .aAccept _ | .aComplete | .aStall => .assembler
  | .fifoIdle | .fifoPush | .fifoPop | .fifoPushPop => .fifo

end Sys2Proof
end

