-- ==== Sys2Proof/WellFormed.lean ====
section
/-! DEFINITION. Which instructions and parameters are well formed: `rise` and `fall` together cannot be formed
(spec/30_encoding.md R106), and the two OPEN parameters are at least 1 (spec/00_scope.md R10, R11). -/

namespace Sys2Proof

/-- The `ri` bit `F[2]` of a follower operation's selector word (R102, R104); false for the other tables. -/
def Instr.riseBit : Instr → Bool
  | .fHold x => x.getLsbD 2
  | .awlStarve x => x.getLsbD 2
  | .awlPop x => x.getLsbD 2
  | .awlPopStart x => x.getLsbD 2
  | .awlWait x => x.getLsbD 2
  | .awlStart x => x.getLsbD 2
  | .slWaitRise _ => false
  | .slPresent _ => true
  | .slWaitFall x => x.getLsbD 1
  | .slNext x => x.getLsbD 0
  | .slLast x => x.getLsbD 0
  | .awhWait x => x.getLsbD 2
  | .awhStart x => x.getLsbD 2
  | .srWaitRise _ => false
  | .srPresent _ => true
  | .srWaitFall x => x.getLsbD 1
  | .srNext x => x.getLsbD 0
  | .srLast x => x.getLsbD 0
  | .reset | .step | .aClosed _ | .aEos _ | .aIdle _ | .aAccept _ | .aComplete | .aStall => false
  | .fifoIdle | .fifoPush | .fifoPop | .fifoPushPop => false

/-- The `fa` bit `F[1]` of a follower operation's selector word (R102, R104); false for the other tables. -/
def Instr.fallBit : Instr → Bool
  | .fHold x => x.getLsbD 1
  | .awlStarve x => x.getLsbD 1
  | .awlPop x => x.getLsbD 1
  | .awlPopStart x => x.getLsbD 1
  | .awlWait x => x.getLsbD 1
  | .awlStart x => x.getLsbD 1
  | .slWaitRise x => x.getLsbD 1
  | .slPresent x => x.getLsbD 1
  | .slWaitFall _ => false
  | .slNext _ => true
  | .slLast _ => true
  | .awhWait x => x.getLsbD 1
  | .awhStart x => x.getLsbD 1
  | .srWaitRise x => x.getLsbD 1
  | .srPresent x => x.getLsbD 1
  | .srWaitFall _ => false
  | .srNext _ => true
  | .srLast _ => true
  | .reset | .step | .aClosed _ | .aEos _ | .aIdle _ | .aAccept _ | .aComplete | .aStall => false
  | .fifoIdle | .fifoPush | .fifoPop | .fifoPushPop => false

/-- R106: a selector word with rise and fall together cannot be formed, so no well-formed instruction stands for one. -/
def Instr.wellFormed (i : Instr) : Bool := !(i.riseBit && i.fallBit)

/-- R10 and R11: `C >= 1` and `N >= 1`. -/
def Params.wellFormed (p : Params) : Bool := decide (1 ≤ p.fifoDepth) && decide (1 ≤ p.syncStages)

end Sys2Proof
end

