-- ==== Sys2Proof/Decode.lean ====
section
/-! DEFINITION. The decoder of the four selector words, the encoder written from the same tables, and the fields of the input
vector (spec/30_encoding.md R101 to R109, R114). -/

namespace Sys2Proof

/-! ## The input vector (R114) -/

/-- `I[13]`: `rst`. -/
def InputWord.rst (i : InputWord) : Bool := i.getLsbD 13
/-- `I[12]`: `run`. -/
def InputWord.run (i : InputWord) : Bool := i.getLsbD 12
/-- `I[11]`: the `bclk` pin. -/
def InputWord.bclk (i : InputWord) : Bool := i.getLsbD 11
/-- `I[10]`: the `ws` pin. -/
def InputWord.ws (i : InputWord) : Bool := i.getLsbD 10
/-- `I[9]`: `in_valid`. -/
def InputWord.inValid (i : InputWord) : Bool := i.getLsbD 9
/-- `I[8]`: `in_eos`. -/
def InputWord.inEos (i : InputWord) : Bool := i.getLsbD 8
/-- `I[7:0]`: `in_byte`. -/
def InputWord.inByte (i : InputWord) : Byte := i.extractLsb' 0 8

/-- The input vector made of the seven inputs (R114). -/
def InputWord.pack (rst run bclk ws inValid inEos : Bool) (inByte : Byte) : InputWord :=
  BitVec.ofBool rst ++ BitVec.ofBool run ++ BitVec.ofBool bclk ++ BitVec.ofBool ws ++ BitVec.ofBool inValid ++
    BitVec.ofBool inEos ++ inByte

/-! ## The decoder -/

/-- Why bytes decode to no operation. -/
inductive DecodeError where
  /-- The number of bytes is not the selector's (one for `G`, `A` and `P`, two for `F`): notes/assumptions/4.md. -/
  | length
  /-- A bit above the selector's width is 1. -/
  | padding
  /-- `F[2:1] = 0b11`, reserved as unformable (R106; spec/93_implementation_defined.md X10 refuses it). -/
  | riseAndFall
  /-- No row matches. R105, R108 and R109 say that this never happens. -/
  | noRow
  deriving DecidableEq, Repr

/-- The map of R101. -/
def decodeG (g : BitVec 1) : Instr := if g = 0b1 then .reset else .step

/-- The map of R104, row by row: `(F & mask) = match`. `F[2:1] = 0b11` is refused first (R106). -/
def decodeF (f : BitVec 10) : Except DecodeError Instr :=
  if f &&& 0x006 = 0x006 then .error .riseAndFall
  else if f &&& 0x200 = 0x000 then .ok (.fHold (f.extractLsb' 0 9))
  else if f &&& 0x3B0 = 0x200 then .ok (.awlStarve (f.extractLsb' 6 1 ++ f.extractLsb' 0 4))
  else if f &&& 0x3B8 = 0x218 then .ok (.awlPop (f.extractLsb' 6 1 ++ f.extractLsb' 0 3))
  else if f &&& 0x3B8 = 0x210 then .ok (.awlPopStart (f.extractLsb' 6 1 ++ f.extractLsb' 0 3))
  else if f &&& 0x3A8 = 0x228 then .ok (.awlWait (f.extractLsb' 6 1 ++ f.extractLsb' 4 1 ++ f.extractLsb' 0 3))
  else if f &&& 0x3A8 = 0x220 then .ok (.awlStart (f.extractLsb' 6 1 ++ f.extractLsb' 4 1 ++ f.extractLsb' 0 3))
  else if f &&& 0x3C4 = 0x280 then .ok (.slWaitRise (f.extractLsb' 3 3 ++ f.extractLsb' 0 2))
  else if f &&& 0x3C4 = 0x284 then .ok (.slPresent (f.extractLsb' 3 3 ++ f.extractLsb' 0 2))
  else if f &&& 0x3C2 = 0x2C0 then .ok (.slWaitFall (f.extractLsb' 2 4 ++ f.extractLsb' 0 1))
  else if f &&& 0x3C3 = 0x2C2 then .ok (.slNext (f.extractLsb' 2 4))
  else if f &&& 0x3C3 = 0x2C3 then .ok (.slLast (f.extractLsb' 2 4))
  else if f &&& 0x388 = 0x300 then .ok (.awhWait (f.extractLsb' 4 3 ++ f.extractLsb' 0 3))
  else if f &&& 0x388 = 0x308 then .ok (.awhStart (f.extractLsb' 4 3 ++ f.extractLsb' 0 3))
  else if f &&& 0x3C4 = 0x380 then .ok (.srWaitRise (f.extractLsb' 3 3 ++ f.extractLsb' 0 2))
  else if f &&& 0x3C4 = 0x384 then .ok (.srPresent (f.extractLsb' 3 3 ++ f.extractLsb' 0 2))
  else if f &&& 0x3C2 = 0x3C0 then .ok (.srWaitFall (f.extractLsb' 2 4 ++ f.extractLsb' 0 1))
  else if f &&& 0x3C3 = 0x3C2 then .ok (.srNext (f.extractLsb' 2 4))
  else if f &&& 0x3C3 = 0x3C3 then .ok (.srLast (f.extractLsb' 2 4))
  else .error .noRow

/-- The map of R108. -/
def decodeA (a : BitVec 5) : Except DecodeError Instr :=
  if a &&& 0x10 = 0x10 then .ok (.aClosed (a.extractLsb' 0 4))
  else if a &&& 0x18 = 0x08 then .ok (.aEos (a.extractLsb' 0 3))
  else if a &&& 0x1C = 0x00 then .ok (.aIdle (a.extractLsb' 0 2))
  else if a &&& 0x1E = 0x04 then .ok (.aAccept (a.extractLsb' 0 1))
  else if a &&& 0x1F = 0x07 then .ok .aComplete
  else if a &&& 0x1F = 0x06 then .ok .aStall
  else .error .noRow

/-- The map of R109. -/
def decodeP (p : BitVec 2) : Instr :=
  if p = 0b00 then .fifoIdle
  else if p = 0b10 then .fifoPush
  else if p = 0b01 then .fifoPop
  else .fifoPushPop

/-- Decode the bytes of one selector word, first byte least significant: total on any bytes, rejecting by name.
The bits above the selector's width must be 0 (notes/assumptions/4.md). -/
def decode (fmt : Format) (bytes : List Byte) : Except DecodeError Instr :=
  match fmt, bytes with
  | .global, [b] => if b.extractLsb' 1 7 = 0 then .ok (decodeG (b.extractLsb' 0 1)) else .error .padding
  | .follower, [b0, b1] =>
    if b1.extractLsb' 2 6 = 0 then decodeF (b1.extractLsb' 0 2 ++ b0) else .error .padding
  | .assembler, [b] => if b.extractLsb' 5 3 = 0 then decodeA (b.extractLsb' 0 5) else .error .padding
  | .fifo, [b] => if b.extractLsb' 2 6 = 0 then .ok (decodeP (b.extractLsb' 0 2)) else .error .padding
  | _, _ => .error .length

/-! ## The encoder -/

/-- The selector word of an instruction, as a number (R101, R104, R108, R109): the row's pattern with `x` in its untested places. -/
def Instr.word : Instr → BitVec 10
  | .reset => 1
  | .step => 0
  | .fHold x => 0b0#1 ++ x
  | .awlStarve x => 0b100#3 ++ x.extractLsb' 4 1 ++ 0b00#2 ++ x.extractLsb' 0 4
  | .awlPop x => 0b100#3 ++ x.extractLsb' 3 1 ++ 0b011#3 ++ x.extractLsb' 0 3
  | .awlPopStart x => 0b100#3 ++ x.extractLsb' 3 1 ++ 0b010#3 ++ x.extractLsb' 0 3
  | .awlWait x => 0b100#3 ++ x.extractLsb' 4 1 ++ 0b1#1 ++ x.extractLsb' 3 1 ++ 0b1#1 ++ x.extractLsb' 0 3
  | .awlStart x => 0b100#3 ++ x.extractLsb' 4 1 ++ 0b1#1 ++ x.extractLsb' 3 1 ++ 0b0#1 ++ x.extractLsb' 0 3
  | .slWaitRise x => 0b1010#4 ++ x.extractLsb' 2 3 ++ 0b0#1 ++ x.extractLsb' 0 2
  | .slPresent x => 0b1010#4 ++ x.extractLsb' 2 3 ++ 0b1#1 ++ x.extractLsb' 0 2
  | .slWaitFall x => 0b1011#4 ++ x.extractLsb' 1 4 ++ 0b0#1 ++ x.extractLsb' 0 1
  | .slNext x => 0b1011#4 ++ x ++ 0b10#2
  | .slLast x => 0b1011#4 ++ x ++ 0b11#2
  | .awhWait x => 0b110#3 ++ x.extractLsb' 3 3 ++ 0b0#1 ++ x.extractLsb' 0 3
  | .awhStart x => 0b110#3 ++ x.extractLsb' 3 3 ++ 0b1#1 ++ x.extractLsb' 0 3
  | .srWaitRise x => 0b1110#4 ++ x.extractLsb' 2 3 ++ 0b0#1 ++ x.extractLsb' 0 2
  | .srPresent x => 0b1110#4 ++ x.extractLsb' 2 3 ++ 0b1#1 ++ x.extractLsb' 0 2
  | .srWaitFall x => 0b1111#4 ++ x.extractLsb' 1 4 ++ 0b0#1 ++ x.extractLsb' 0 1
  | .srNext x => 0b1111#4 ++ x ++ 0b10#2
  | .srLast x => 0b1111#4 ++ x ++ 0b11#2
  | .aClosed x => 0b00000#5 ++ 0b1#1 ++ x
  | .aEos x => 0b00000#5 ++ 0b01#2 ++ x
  | .aIdle x => 0b00000#5 ++ 0b000#3 ++ x
  | .aAccept x => 0b00000#5 ++ 0b0010#4 ++ x
  | .aComplete => 0b00111
  | .aStall => 0b00110
  | .fifoIdle => 0b00
  | .fifoPush => 0b10
  | .fifoPop => 0b01
  | .fifoPushPop => 0b11

/-- The bytes a selector word `w` of a table is laid out in, first byte least significant (notes/assumptions/4.md). -/
def layout (fmt : Format) (w : Nat) : List Byte :=
  match fmt with
  | .follower => [BitVec.ofNat 8 w, BitVec.ofNat 8 (w / 256)]
  | .global | .assembler | .fifo => [BitVec.ofNat 8 w]

/-- The bytes of an instruction's selector word. -/
def encode (i : Instr) : List Byte := layout i.format i.word.toNat

/-! ## The rows of the opcode table, as the table gives them -/

/-- The mask of an operation's row (R101, R104, R108, R109). -/
def Instr.rowMask : Instr → BitVec 10
  | .reset | .step => 0x001
  | .fHold _ => 0x200
  | .awlStarve _ => 0x3B0
  | .awlPop _ | .awlPopStart _ => 0x3B8
  | .awlWait _ | .awlStart _ => 0x3A8
  | .slWaitRise _ | .slPresent _ | .srWaitRise _ | .srPresent _ => 0x3C4
  | .slWaitFall _ | .srWaitFall _ => 0x3C2
  | .slNext _ | .slLast _ | .srNext _ | .srLast _ => 0x3C3
  | .awhWait _ | .awhStart _ => 0x388
  | .aClosed _ => 0x010
  | .aEos _ => 0x018
  | .aIdle _ => 0x01C
  | .aAccept _ => 0x01E
  | .aComplete | .aStall => 0x01F
  | .fifoIdle | .fifoPush | .fifoPop | .fifoPushPop => 0x003

/-- The match value of an operation's row (R101, R104, R108, R109). -/
def Instr.rowMatch : Instr → BitVec 10
  | .reset => 0x001
  | .step => 0x000
  | .fHold _ => 0x000
  | .awlStarve _ => 0x200
  | .awlPop _ => 0x218
  | .awlPopStart _ => 0x210
  | .awlWait _ => 0x228
  | .awlStart _ => 0x220
  | .slWaitRise _ => 0x280
  | .slPresent _ => 0x284
  | .slWaitFall _ => 0x2C0
  | .slNext _ => 0x2C2
  | .slLast _ => 0x2C3
  | .awhWait _ => 0x300
  | .awhStart _ => 0x308
  | .srWaitRise _ => 0x380
  | .srPresent _ => 0x384
  | .srWaitFall _ => 0x3C0
  | .srNext _ => 0x3C2
  | .srLast _ => 0x3C3
  | .aClosed _ => 0x010
  | .aEos _ => 0x008
  | .aIdle _ => 0x000
  | .aAccept _ => 0x004
  | .aComplete => 0x007
  | .aStall => 0x006
  | .fifoIdle => 0x0
  | .fifoPush => 0x2
  | .fifoPop => 0x1
  | .fifoPushPop => 0x3

/-! ## Words as spec/opcode_table.json numbers them -/

/-- Which table a bare number of `nbits` bits belongs to. The table's rows do not say: `G`, `A` and `P` words all fit one byte and
overlap. A width that is a selector's own decides. In one byte, 0 and 1 are read as `G`, 2 and 3 as `P`, 4 to 31 as `A`:
DESIGN CHOICE, notes/assumptions/5.md. -/
def tableFormat (nbits w : Nat) : Option Format :=
  if nbits = 1 then some .global
  else if nbits = 2 then some .fifo
  else if nbits = 5 then some .assembler
  else if nbits = 10 ∨ nbits = 16 then some .follower
  else if nbits = 8 then some (if w < 2 then .global else if w < 4 then .fifo else .assembler)
  else none

/-- What the decoder reads from an instruction whose bits are `w` (the host's name). -/
def decodeTableWord (nbits w : Nat) : Option Instr :=
  if 2 ^ nbits ≤ w then none
  else
    match tableFormat nbits w with
    | none => none
    | some fmt =>
      match decode fmt (layout fmt w) with
      | .ok i => some i
      | .error _ => none

end Sys2Proof
end

