-- ==== Sys2Proof/Machine/State.lean ====
section
/-! DEFINITION. The state of the block: exactly the registers of spec/10_state.md R33 to R48, grouped by the sub-block that writes them
(spec/30_encoding.md R111), the OPEN parameters, and the environment's inputs as plain data. -/

namespace Sys2Proof.Machine

/-- `fsm[1:0]`: the follower's four states; every value is legal (R33). -/
inductive Fsm where
  /-- `AwaitWordSelectLow`, `0b00`. -/
  | awl
  /-- `ShiftLeft`, `0b01`. -/
  | sl
  /-- `AwaitWordSelectHigh`, `0b10`. -/
  | awh
  /-- `ShiftRight`, `0b11`. -/
  | sr
  deriving DecidableEq, Repr

/-- `phase`: the sub-step within one bit of a shift state (R34). -/
inductive Phase where
  /-- `0` = WaitRise. -/
  | waitRise
  /-- `1` = WaitFall. -/
  | waitFall
  deriving DecidableEq, Repr

/-- The registers a follower operation writes (R33 to R38, R41; R111). -/
structure Follower where
  /-- `fsm` (R33). -/
  fsm : Fsm
  /-- `phase` (R34). -/
  phase : Phase
  /-- `idx[3:0]` (R35). -/
  idx : BitIndex
  /-- `frame[31:0]` (R36). -/
  frame : FrameWord
  /-- `frame_valid` (R37). -/
  frameValid : Bool
  /-- `sd`, the serial-data output register (R38). -/
  sd : Bool
  /-- `frames_tx[31:0]` (R41). -/
  framesTx : Count32
  deriving DecidableEq, Repr

/-- The registers the synchroniser writes (R39, R40; R111). -/
structure Sync where
  /-- `bsync[0..N-1]`, stage 0 first (R39). -/
  bsync : List Bool
  /-- `wsync[0..N-1]`, stage 0 first (R39). -/
  wsync : List Bool
  /-- `bclk_prev` (R40). -/
  bclkPrev : Bool
  deriving DecidableEq, Repr

/-- The FIFO storage `mem[0..C-1]` (R42): the slots written so far with the word each holds, by rising slot number. A slot that is
not listed holds its unspecified power-up word, `Config.unwrittenSlot` (notes/assumptions/2.md). -/
abbrev Memory := List (Nat × FrameWord)

/-- The registers a FIFO operation writes (R42 to R44; R111). -/
structure Fifo where
  /-- `mem[*]` (R42). -/
  mem : Memory
  /-- `rd_ptr` (R43). -/
  rdPtr : Nat
  /-- `wr_ptr` (R43). -/
  wrPtr : Nat
  /-- `count` (R44). -/
  count : Nat
  deriving DecidableEq, Repr

/-- The carry buffer `carry[0..2]` (R45). -/
structure Carry where
  /-- `carry[0]`. -/
  c0 : Byte
  /-- `carry[1]`. -/
  c1 : Byte
  /-- `carry[2]`. -/
  c2 : Byte
  deriving DecidableEq, Repr

/-- The registers an assembler operation writes (R45 to R48; R111). -/
structure Assembler where
  /-- `carry[0..2]` (R45). -/
  carry : Carry
  /-- `bcnt[1:0]` (R46). -/
  bcnt : BitVec 2
  /-- `eos_seen` (R47). -/
  eosSeen : Bool
  /-- `bytes_rx[31:0]` (R48). -/
  bytesRx : Count32
  deriving DecidableEq, Repr

/-- The state of the block (R49), with the OPEN parameters it is built with and the environment's inputs. -/
structure State where
  /-- The OPEN parameters `C` and `N` (R10, R11); no step changes them (notes/assumptions/1.md). -/
  params : Params
  follower : Follower
  sync : Sync
  fifo : Fifo
  assembler : Assembler
  /-- The input vectors of the coming steps, next step first, as the environment chose them (R30, R32, R114).
  MODEL'S OWN field: notes/assumptions/3.md. -/
  stimulus : List InputWord
  /-- How many input vectors were drawn freely, `stimulus` being empty. MODEL'S OWN field: notes/assumptions/3.md. -/
  draws : Nat
  deriving DecidableEq, Repr

/-- The output ports of the block in one step (R31). They are no state: three are registers and four are combinational
(`State.outputs`). -/
structure Outputs where
  /-- `sd` (R38). -/
  sd : Bool
  /-- `in_ready` (R53). -/
  inReady : Bool
  /-- `fifo_level` (R54). -/
  fifoLevel : Nat
  /-- `starved` (R54). -/
  starved : Bool
  /-- `session_done` (R54). -/
  sessionDone : Bool
  /-- `frames_tx` (R41). -/
  framesTx : Count32
  /-- `bytes_rx` (R48). -/
  bytesRx : Count32
  deriving DecidableEq, Repr

/-- Why the machine stops with a fault. -/
inductive Fault where
  /-- Raised by `AWL_POP`, `AWL_POP_START`, `FIFO_PUSH` and `FIFO_PUSHPOP` when the pointer they use names no slot of `mem[0..C-1]`
  (R42, R43). SAFE: no state reachable from reset has such a pointer (R58). notes/assumptions/6.md. -/
  | noSuchSlot
  deriving DecidableEq, Repr

/-- Why the machine gives an instruction no meaning. -/
inductive Refusal where
  /-- Raised by an arm of `exec` whose instruction has no meaning yet. SAFE. No arm of this model raises it. -/
  | notModelled (mnemonic : String)
  /-- Raised by `STEP` when a selector word decodes to no operation (R106). SAFE, and no state raises it: `rise` and `fall` are never
  both 1 (R51). -/
  | reservedSelector
  /-- Raised by `STEP` when the operation asked of a sub-block is not one of its table (R100). SAFE, and no state raises it. -/
  | otherTable
  deriving DecidableEq, Repr

/-- The outcome of an operation or a step. -/
abbrev Result := Host.Outcome State Fault Refusal

/-! ## The reset values (R240) -/

/-- R240, and R33 to R38 and R41. -/
def Follower.reset : Follower :=
  { fsm := .awl, phase := .waitRise, idx := 0, frame := 0x00000000, frameValid := false, sd := false, framesTx := 0 }

/-- R240, R39 and R40: every stage 0. -/
def Sync.reset (p : Params) : Sync :=
  { bsync := List.replicate p.syncStages false, wsync := List.replicate p.syncStages false, bclkPrev := false }

/-- R240, R43 and R44: the pointers and the count are 0, and `mem` is not written (R178). -/
def Fifo.resetKeeping (m : Memory) : Fifo := { mem := m, rdPtr := 0, wrPtr := 0, count := 0 }

/-- R240, and R45 to R48. -/
def Assembler.reset : Assembler :=
  { carry := { c0 := 0x00, c1 := 0x00, c2 := 0x00 }, bcnt := 0, eosSeen := false, bytesRx := 0 }

/-- The reset state of a block with parameters `p` (R240), nothing written to `mem` yet and no input chosen yet. -/
def State.resetWith (p : Params) : State :=
  { params := p, follower := Follower.reset, sync := Sync.reset p, fifo := Fifo.resetKeeping [],
    assembler := Assembler.reset, stimulus := [], draws := 0 }

/-- The machine right after reset (R240, R247), with the sample parameters (notes/assumptions/1.md). -/
def State.reset : State := State.resetWith Params.sample

end Sys2Proof.Machine
end

