-- ==== Sys2Proof/Machine/Ops.lean ====
section
/-! DEFINITION. The named operations over the input stream, the FIFO storage and the register groups. The block takes no exception
and returns from none: nothing traps (spec/60_exceptions.md R210, R217, R218), so there is no operation for either. -/

namespace Sys2Proof.Machine

/-! ## The input vector of a step -/

/-- The input vector of this step (R32, R114): the next one listed, and a free draw where none is listed (notes/assumptions/3.md). -/
def State.input (s : State) : InputWord :=
  match s.stimulus with
  | i :: _ => i
  | [] => Config.freeInput s.draws

/-- Every step consumes exactly one input vector (R113). -/
def State.consume (s : State) : State :=
  match s.stimulus with
  | _ :: rest => { s with stimulus := rest }
  | [] => { s with draws := s.draws + 1 }

/-- What a step adds around the operation it performed: a next state has consumed its input vector (R113). -/
def consumed (r : Result) : Result :=
  match r with
  | .next t => .next t.consume
  | .fault e => .fault e
  | .refused e => .refused e

/-- The same machine with its input vector of this step chosen to be `i`. -/
def State.withInput (s : State) (i : InputWord) : State := { s with stimulus := i :: s.stimulus.tail }

/-! ## The FIFO storage (R17, R42, R70) -/

/-- The word in slot `p`: the one listed, else the slot's unspecified power-up word (X4; notes/assumptions/2.md). -/
def Memory.read : Memory → Nat → FrameWord
  | [], p => Config.unwrittenSlot p
  | (q, v) :: m, p => if q = p then v else Memory.read m p

/-- Write slot `p`, keeping the slots rising. -/
def Memory.write : Memory → Nat → FrameWord → Memory
  | [], p, v => [(p, v)]
  | (q, u) :: m, p, v =>
    if p < q then (p, v) :: (q, u) :: m
    else if p = q then (p, v) :: m
    else (q, u) :: Memory.write m p v

/-- Whether slot `p` was written. -/
def Memory.written : Memory → Nat → Bool
  | [], _ => false
  | (q, _) :: m, p => q == p || Memory.written m p

/-- The canonical form from slot `lo` on: slots strictly rising and below `c`. -/
def Memory.wfFrom (lo c : Nat) : Memory → Bool
  | [] => true
  | (q, _) :: m => decide (lo ≤ q) && decide (q < c) && Memory.wfFrom (q + 1) c m

/-- The canonical form of `mem[0..C-1]` (notes/assumptions/2.md). -/
def Memory.wf (c : Nat) (m : Memory) : Bool := Memory.wfFrom 0 c m

/-- `MemRead(fifo, p)` (R17): the word in slot `p`; `none` where the FIFO has no slot `p`. -/
def State.memRead (s : State) (p : Nat) : Option FrameWord :=
  if p < s.params.fifoDepth then some (s.fifo.mem.read p) else none

/-- `MemWrite(fifo, p, v)` (R17): the storage after the write; `none` where the FIFO has no slot `p`. -/
def State.memWrite (s : State) (p : Nat) (v : FrameWord) : Option Memory :=
  if p < s.params.fifoDepth then some (s.fifo.mem.write p v) else none

/-- `(p + 1) mod C` (R17, R43). -/
def State.nextSlot (s : State) (p : Nat) : Nat := (p + 1) % s.params.fifoDepth

/-! ## Register groups (R111) -/

/-- The next state in which only follower registers were written. -/
def State.setFollower (s : State) (f : Follower) : State := { s with follower := f }

/-- The next state in which only FIFO registers were written. -/
def State.setFifo (s : State) (q : Fifo) : State := { s with fifo := q }

/-- The next state in which only assembler registers were written. -/
def State.setAssembler (s : State) (a : Assembler) : State := { s with assembler := a }

/-! ## Shared follower writes -/

/-- `frame <- w`, `frame_valid <- 1` (R135, R136). -/
def Follower.load (f : Follower) (w : FrameWord) : Follower := { f with frame := w, frameValid := true }

/-- `fsm <- S`, `phase <- 0`, `idx <- 15`: the start of a channel (R136, R138, R145). -/
def Follower.startChannel (f : Follower) (st : Fsm) : Follower := { f with fsm := st, phase := .waitRise, idx := 15 }

/-- `sd <- b`, `phase <- 1`: a present step (R140, R147). -/
def Follower.present (f : Follower) (b : Bool) : Follower := { f with sd := b, phase := .waitFall }

/-- `idx <- idx - 1`, `phase <- 0` (R142, R149). -/
def Follower.nextBit (f : Follower) : Follower := { f with idx := f.idx - 1, phase := .waitRise }

/-- `fsm <- S`, `phase <- 0`: the end of a word (R143, R150). -/
def Follower.leaveWord (f : Follower) (st : Fsm) : Follower := { f with fsm := st, phase := .waitRise }

/-- `frame_valid <- 0`, `frames_tx <- (frames_tx + 1) mod 2^32`: the frame is complete (R150, R41). -/
def Follower.frameDone (f : Follower) : Follower := { f with frameValid := false, framesTx := f.framesTx + 1 }

/-! ## Shared assembler writes -/

/-- `carry[k] <- b` (R195). There is no `carry[3]`: with `k = 3`, which selects no accepting row (R108), nothing is written
(notes/assumptions/7.md). -/
def Carry.set (c : Carry) (k : BitVec 2) (b : Byte) : Carry :=
  if k = 0 then { c with c0 := b }
  else if k = 1 then { c with c1 := b }
  else if k = 2 then { c with c2 := b }
  else c

/-- `bytes_rx <- (bytes_rx + 1) mod 2^32` (R48, R195, R196). -/
def Assembler.countByte (a : Assembler) : Assembler := { a with bytesRx := a.bytesRx + 1 }

end Sys2Proof.Machine
end

