-- ==== Sys2Proof/Machine/Flags.lean ====
section
/-! DEFINITION. The combinational signals of a step (spec/10_state.md R51 to R54) and the four selector words formed from state and
inputs (spec/30_encoding.md R101, R102, R107, R109). -/

namespace Sys2Proof.Machine

/-- The two-bit code of `fsm` (R33). -/
def Fsm.code : Fsm → BitVec 2
  | .awl => 0b00
  | .sl => 0b01
  | .awh => 0b10
  | .sr => 0b11

/-- The bit of `phase` (R34). -/
def Phase.bit : Phase → Bool
  | .waitRise => false
  | .waitFall => true

namespace State

/-! ## Pin samples and edges (R51) -/

/-- `bclk_s := bsync[N-1]`. A chain with no such stage, which no state reachable from reset has, reads 0 (notes/assumptions/7.md). -/
def bclkS (s : State) : Bool := s.sync.bsync.getD (s.params.syncStages - 1) false

/-- `ws_s := wsync[N-1]`. -/
def wsS (s : State) : Bool := s.sync.wsync.getD (s.params.syncStages - 1) false

/-- `rise := (bclk_prev = 0) and (bclk_s = 1)`. -/
def rise (s : State) : Bool := !s.sync.bclkPrev && s.bclkS

/-- `fall := (bclk_prev = 1) and (bclk_s = 0)`. -/
def fall (s : State) : Bool := s.sync.bclkPrev && !s.bclkS

/-- `idx_zero := (idx = 0)`. -/
def idxZero (s : State) : Bool := s.follower.idx == 0

/-! ## FIFO status (R52) -/

/-- `fifo_ne := (count != 0)`. -/
def fifoNe (s : State) : Bool := s.fifo.count != 0

/-- `fifo_nf := (count != C)`. -/
def fifoNf (s : State) : Bool := s.fifo.count != s.params.fifoDepth

/-! ## Handshake (R53) -/

/-- `bcnt = 3`: the fourth byte of a frame is the next to come. -/
def bcnt3 (s : State) : Bool := s.assembler.bcnt == 3

/-- `in_ready := (rst = 0) and (eos_seen = 0) and (in_eos = 0) and ((bcnt != 3) or fifo_nf)`. -/
def inReady (s : State) : Bool :=
  !s.input.rst && !s.assembler.eosSeen && !s.input.inEos && (!s.bcnt3 || s.fifoNf)

/-- `accept := in_valid and in_ready`. -/
def accept (s : State) : Bool := s.input.inValid && s.inReady

/-- `push := accept and (bcnt = 3)`. -/
def push (s : State) : Bool := s.accept && s.bcnt3

/-- `pop := (rst = 0) and (run = 1) and (fsm = AWL) and (frame_valid = 0) and fifo_ne`. -/
def pop (s : State) : Bool :=
  !s.input.rst && s.input.run && s.follower.fsm == .awl && !s.follower.frameValid && s.fifoNe

/-! ## Status outputs (R54) -/

/-- `fifo_level := count` (R54, R176). -/
def fifoLevel (s : State) : Nat := s.fifo.count

/-- `starved := (fsm = AWL) and (frame_valid = 0) and (count = 0)`. -/
def starved (s : State) : Bool := s.follower.fsm == .awl && !s.follower.frameValid && s.fifo.count == 0

/-- `session_done := (eos_seen = 1) and (count = 0)`. -/
def sessionDone (s : State) : Bool := s.assembler.eosSeen && s.fifo.count == 0

/-- The output ports in this step (R31): functions of the state at its start and of its inputs. -/
def outputs (s : State) : Outputs :=
  { sd := s.follower.sd, inReady := s.inReady, fifoLevel := s.fifoLevel, starved := s.starved,
    sessionDone := s.sessionDone, framesTx := s.follower.framesTx, bytesRx := s.assembler.bytesRx }

/-! ## Selector words -/

/-- `G[0] = rst` (R101). -/
def selG (s : State) : BitVec 1 := BitVec.ofBool s.input.rst

/-- `F[9:0]` = `run`, `fsm`, `phase`, `fv`, `ne`, `ws`, `ri`, `fa`, `iz` (R102). -/
def selF (s : State) : BitVec 10 :=
  BitVec.ofBool s.input.run ++ s.follower.fsm.code ++ BitVec.ofBool s.follower.phase.bit ++
    BitVec.ofBool s.follower.frameValid ++ BitVec.ofBool s.fifoNe ++ BitVec.ofBool s.wsS ++
    BitVec.ofBool s.rise ++ BitVec.ofBool s.fall ++ BitVec.ofBool s.idxZero

/-- `A[4:0]` = `es`, `eo`, `iv`, `b3`, `nf` (R107). -/
def selA (s : State) : BitVec 5 :=
  BitVec.ofBool s.assembler.eosSeen ++ BitVec.ofBool s.input.inEos ++ BitVec.ofBool s.input.inValid ++
    BitVec.ofBool s.bcnt3 ++ BitVec.ofBool s.fifoNf

/-- `P[1:0]` = `push`, `pop` (R109). -/
def selP (s : State) : BitVec 2 := BitVec.ofBool s.push ++ BitVec.ofBool s.pop

end State

end Sys2Proof.Machine
end

