-- ==== Sys2Proof/Machine/Operands.lean ====
section
/-! DEFINITION. The operands the operations read (spec/30_encoding.md R110, spec/10_state.md R52, R53). No other operand form exists. -/

namespace Sys2Proof.Machine.State

/-- `present_bit` in ShiftLeft: `frame[16 + idx]` (R110, R75). -/
def leftBit (s : State) : Bool := s.follower.frame.getLsbD (16 + s.follower.idx.toNat)

/-- `present_bit` in ShiftRight: `frame[idx]` (R110, R75). -/
def rightBit (s : State) : Bool := s.follower.frame.getLsbD s.follower.idx.toNat

/-- `word := {carry[1], carry[0], in_byte, carry[2]}` (R53, R74, R110). -/
def word (s : State) : FrameWord :=
  s.assembler.carry.c1 ++ s.assembler.carry.c0 ++ s.input.inByte ++ s.assembler.carry.c2

/-- `head := MemRead(fifo, rd_ptr)` (R52); `none` where `rd_ptr` names no slot. -/
def head (s : State) : Option FrameWord := s.memRead s.fifo.rdPtr

end Sys2Proof.Machine.State
end

