-- ==== Sys2Proof/Machine/Follower.lean ====
section
/-! DEFINITION. The eighteen follower operations (spec/40_follower.md R133 to R150). Each writes follower registers only (R111); the
FIFO's part of a pop is the FIFO operation of the same step. -/

namespace Sys2Proof.Machine

/-- Use the frame at the head of the FIFO (R52); a pointer that names no slot faults (notes/assumptions/6.md). -/
def withHead (s : State) (use : FrameWord → Follower) : Result :=
  match s.head with
  | some w => .next (s.setFollower (use w))
  | none => .fault .noSuchSlot

/-! ## Stopped -/

/-- F_HOLD (R133): no change to any follower register. -/
def execFHold (s : State) : Result := .next s

/-! ## AwaitWordSelectLow and the frame boundary -/

/-- AWL_STARVE (R134): no change. -/
def execAwlStarve (s : State) : Result := .next s

/-- AWL_POP (R135): `frame <- head`, `frame_valid <- 1`. -/
def execAwlPop (s : State) : Result := withHead s fun w => s.follower.load w

/-- AWL_POP_START (R136): the pop, and `fsm <- SL`, `phase <- 0`, `idx <- 15`. -/
def execAwlPopStart (s : State) : Result := withHead s fun w => (s.follower.load w).startChannel .sl

/-- AWL_WAIT (R137): no change. -/
def execAwlWait (s : State) : Result := .next s

/-- AWL_START (R138): `fsm <- SL`, `phase <- 0`, `idx <- 15`. -/
def execAwlStart (s : State) : Result := .next (s.setFollower (s.follower.startChannel .sl))

/-! ## ShiftLeft -/

/-- SL_WAIT_RISE (R139): no change. -/
def execSlWaitRise (s : State) : Result := .next s

/-- SL_PRESENT (R140): `sd <- frame[16 + idx]`, `phase <- 1`. -/
def execSlPresent (s : State) : Result := .next (s.setFollower (s.follower.present s.leftBit))

/-- SL_WAIT_FALL (R141): no change. -/
def execSlWaitFall (s : State) : Result := .next s

/-- SL_NEXT (R142): `idx <- idx - 1`, `phase <- 0`. -/
def execSlNext (s : State) : Result := .next (s.setFollower s.follower.nextBit)

/-- SL_LAST (R143): `fsm <- AWH`, `phase <- 0`. -/
def execSlLast (s : State) : Result := .next (s.setFollower (s.follower.leaveWord .awh))

/-! ## AwaitWordSelectHigh -/

/-- AWH_WAIT (R144): no change. -/
def execAwhWait (s : State) : Result := .next s

/-- AWH_START (R145): `fsm <- SR`, `phase <- 0`, `idx <- 15`. -/
def execAwhStart (s : State) : Result := .next (s.setFollower (s.follower.startChannel .sr))

/-! ## ShiftRight -/

/-- SR_WAIT_RISE (R146): no change. -/
def execSrWaitRise (s : State) : Result := .next s

/-- SR_PRESENT (R147): `sd <- frame[idx]`, `phase <- 1`. -/
def execSrPresent (s : State) : Result := .next (s.setFollower (s.follower.present s.rightBit))

/-- SR_WAIT_FALL (R148): no change. -/
def execSrWaitFall (s : State) : Result := .next s

/-- SR_NEXT (R149): `idx <- idx - 1`, `phase <- 0`. -/
def execSrNext (s : State) : Result := .next (s.setFollower s.follower.nextBit)

/-- SR_LAST (R150): `fsm <- AWL`, `phase <- 0`, `frame_valid <- 0`, `frames_tx <- (frames_tx + 1) mod 2^32`. -/
def execSrLast (s : State) : Result := .next (s.setFollower (s.follower.leaveWord .awl).frameDone)

/-- The follower's part of a STEP: the operation its selector chose (R100, R131). -/
def performFollower (i : Instr) (s : State) : Result :=
  match i with
  | .fHold _ => execFHold s
  | .awlStarve _ => execAwlStarve s
  | .awlPop _ => execAwlPop s
  | .awlPopStart _ => execAwlPopStart s
  | .awlWait _ => execAwlWait s
  | .awlStart _ => execAwlStart s
  | .slWaitRise _ => execSlWaitRise s
  | .slPresent _ => execSlPresent s
  | .slWaitFall _ => execSlWaitFall s
  | .slNext _ => execSlNext s
  | .slLast _ => execSlLast s
  | .awhWait _ => execAwhWait s
  | .awhStart _ => execAwhStart s
  | .srWaitRise _ => execSrWaitRise s
  | .srPresent _ => execSrPresent s
  | .srWaitFall _ => execSrWaitFall s
  | .srNext _ => execSrNext s
  | .srLast _ => execSrLast s
  | .reset | .step => .refused .otherTable
  | .aClosed _ | .aEos _ | .aIdle _ | .aAccept _ | .aComplete | .aStall => .refused .otherTable
  | .fifoIdle | .fifoPush | .fifoPop | .fifoPushPop => .refused .otherTable

end Sys2Proof.Machine
end

