-- ==== Sys2Proof/Machine/SampleAssembler.lean ====
section
/-! DEFINITION. The six assembler operations (spec/42_assembler.md R192 to R197). Each writes assembler registers only (R111); the
push of A_COMPLETE is the FIFO operation of the same step. -/

namespace Sys2Proof.Machine

/-- A_CLOSED (R192): no change. -/
def execAClosed (s : State) : Result := .next s

/-- A_EOS (R193): `eos_seen <- 1`, `bcnt <- 0`; `carry` keeps its stale bytes. -/
def execAEos (s : State) : Result := .next (s.setAssembler { s.assembler with eosSeen := true, bcnt := 0 })

/-- A_IDLE (R194): no change. -/
def execAIdle (s : State) : Result := .next s

/-- A_ACCEPT (R195): `carry[bcnt] <- in_byte`, `bcnt <- bcnt + 1`, `bytes_rx <- (bytes_rx + 1) mod 2^32`. -/
def execAAccept (s : State) : Result :=
  .next (s.setAssembler
    { s.assembler.countByte with
      carry := s.assembler.carry.set s.assembler.bcnt s.input.inByte
      bcnt := s.assembler.bcnt + 1 })

/-- A_COMPLETE (R196): `bcnt <- 0`, `bytes_rx <- (bytes_rx + 1) mod 2^32`. -/
def execAComplete (s : State) : Result := .next (s.setAssembler { s.assembler.countByte with bcnt := 0 })

/-- A_STALL (R197): no change. -/
def execAStall (s : State) : Result := .next s

/-- The assembler's part of a STEP: the operation its selector chose (R100, R190). -/
def performAssembler (i : Instr) (s : State) : Result :=
  match i with
  | .aClosed _ => execAClosed s
  | .aEos _ => execAEos s
  | .aIdle _ => execAIdle s
  | .aAccept _ => execAAccept s
  | .aComplete => execAComplete s
  | .aStall => execAStall s
  | .reset | .step => .refused .otherTable
  | .fifoIdle | .fifoPush | .fifoPop | .fifoPushPop => .refused .otherTable
  | .fHold _ | .awlStarve _ | .awlPop _ | .awlPopStart _ | .awlWait _ | .awlStart _ => .refused .otherTable
  | .slWaitRise _ | .slPresent _ | .slWaitFall _ | .slNext _ | .slLast _ => .refused .otherTable
  | .awhWait _ | .awhStart _ => .refused .otherTable
  | .srWaitRise _ | .srPresent _ | .srWaitFall _ | .srNext _ | .srLast _ => .refused .otherTable

end Sys2Proof.Machine
end

