-- ==== Sys2Proof/Machine/SampleFifo.lean ====
section
/-! DEFINITION. The four FIFO operations (spec/41_fifo.md R171 to R174). Each writes FIFO registers only (R111). -/

namespace Sys2Proof.Machine

/-- Append `word` at `wr_ptr` (R172, R174) and go on with the storage that results; a pointer that names no slot faults
(notes/assumptions/6.md). -/
def withPushed (s : State) (use : Memory → Fifo) : Result :=
  match s.memWrite s.fifo.wrPtr s.word with
  | some m => .next (s.setFifo (use m))
  | none => .fault .noSuchSlot

/-- FIFO_IDLE (R171): no change. -/
def execFifoIdle (s : State) : Result := .next s

/-- FIFO_PUSH (R172): `MemWrite(fifo, wr_ptr, word)`, `wr_ptr <- (wr_ptr + 1) mod C`, `count <- count + 1`. -/
def execFifoPush (s : State) : Result :=
  withPushed s fun m => { s.fifo with mem := m, wrPtr := s.nextSlot s.fifo.wrPtr, count := s.fifo.count + 1 }

/-- FIFO_POP (R173): `rd_ptr <- (rd_ptr + 1) mod C`, `count <- count - 1`. The slot read is not cleared. -/
def execFifoPop (s : State) : Result :=
  .next (s.setFifo { s.fifo with rdPtr := s.nextSlot s.fifo.rdPtr, count := s.fifo.count - 1 })

/-- FIFO_PUSHPOP (R174): the write, both pointers advanced, `count` unchanged. -/
def execFifoPushPop (s : State) : Result :=
  withPushed s fun m =>
    { s.fifo with mem := m, wrPtr := s.nextSlot s.fifo.wrPtr, rdPtr := s.nextSlot s.fifo.rdPtr }

/-- The FIFO's part of a STEP: the operation its selector chose (R100, R170). -/
def performFifo (i : Instr) (s : State) : Result :=
  match i with
  | .fifoIdle => execFifoIdle s
  | .fifoPush => execFifoPush s
  | .fifoPop => execFifoPop s
  | .fifoPushPop => execFifoPushPop s
  | .reset | .step => .refused .otherTable
  | .aClosed _ | .aEos _ | .aIdle _ | .aAccept _ | .aComplete | .aStall => .refused .otherTable
  | .fHold _ | .awlStarve _ | .awlPop _ | .awlPopStart _ | .awlWait _ | .awlStart _ => .refused .otherTable
  | .slWaitRise _ | .slPresent _ | .slWaitFall _ | .slNext _ | .slLast _ => .refused .otherTable
  | .awhWait _ | .awhStart _ => .refused .otherTable
  | .srWaitRise _ | .srPresent _ | .srWaitFall _ | .srNext _ | .srLast _ => .refused .otherTable

end Sys2Proof.Machine
end

