-- ==== Sys2Proof/Machine/Global.lean ====
section
/-! DEFINITION. The two global operations: RESET (spec/70_reset_and_hazards.md R240) and STEP (spec/30_encoding.md R100, R111), with
the synchroniser update of spec/10_state.md R39 and R40. -/

namespace Sys2Proof.Machine

/-- One shift of a synchroniser chain: stage 0 takes the pin, stage `k` takes stage `k - 1` (R39). -/
def shiftChain (pin : Bool) (chain : List Bool) : List Bool := (pin :: chain).take chain.length

/-- The synchroniser update of a step with `rst = 0` (R39, R40); `run` does not affect it. -/
def State.syncNext (s : State) : Sync :=
  { bsync := shiftChain s.input.bclk s.sync.bsync
    wsync := shiftChain s.input.ws s.sync.wsync
    bclkPrev := s.bclkS }

/-- The composition of one step (R111, R16): every operation has read the state `s`, and each register takes its value from the
sub-block that writes it. -/
def State.merge (s : State) (follower fifo assembler : Result) : Result :=
  match follower, fifo, assembler with
  | .next tf, .next tq, .next ta =>
    .next { s with follower := tf.follower, fifo := tq.fifo, assembler := ta.assembler, sync := s.syncNext }
  | .fault r, _, _ => .fault r
  | .refused r, _, _ => .refused r
  | _, .fault r, _ => .fault r
  | _, .refused r, _ => .refused r
  | _, _, .fault r => .fault r
  | _, _, .refused r => .refused r

/-- RESET (R240): every register takes its reset value; `mem` is not written (R178). -/
def execReset (s : State) : Result :=
  .next { s with
    follower := Follower.reset
    sync := Sync.reset s.params
    fifo := Fifo.resetKeeping s.fifo.mem
    assembler := Assembler.reset }

/-- STEP (R100, R111): one operation from each table, chosen by its selector word, and the synchroniser update. -/
def execStep (s : State) : Result :=
  match decodeF s.selF, decodeA s.selA with
  | .ok f, .ok a => s.merge (performFollower f s) (performFifo (decodeP s.selP) s) (performAssembler a s)
  | _, _ => .refused .reservedSelector

end Sys2Proof.Machine
end

