-- ==== Sys2Proof/Machine/Dispatch.lean ====
section
/-! DEFINITION. One arm per operation of the opcode table (spec/opcode_table.json). -/

namespace Sys2Proof.Machine

def exec (i : Instr) (s : State) : Host.Outcome State Fault Refusal :=
  match i with
  -- global operations (R101)
  | .reset => Sys2Proof.Machine.execReset s
  | .step => Sys2Proof.Machine.execStep s
  -- follower operations (R104)
  | .fHold _ => Sys2Proof.Machine.execFHold s
  | .awlStarve _ => Sys2Proof.Machine.execAwlStarve s
  | .awlPop _ => Sys2Proof.Machine.execAwlPop s
  | .awlPopStart _ => Sys2Proof.Machine.execAwlPopStart s
  | .awlWait _ => Sys2Proof.Machine.execAwlWait s
  | .awlStart _ => Sys2Proof.Machine.execAwlStart s
  | .slWaitRise _ => Sys2Proof.Machine.execSlWaitRise s
  | .slPresent _ => Sys2Proof.Machine.execSlPresent s
  | .slWaitFall _ => Sys2Proof.Machine.execSlWaitFall s
  | .slNext _ => Sys2Proof.Machine.execSlNext s
  | .slLast _ => Sys2Proof.Machine.execSlLast s
  | .awhWait _ => Sys2Proof.Machine.execAwhWait s
  | .awhStart _ => Sys2Proof.Machine.execAwhStart s
  | .srWaitRise _ => Sys2Proof.Machine.execSrWaitRise s
  | .srPresent _ => Sys2Proof.Machine.execSrPresent s
  | .srWaitFall _ => Sys2Proof.Machine.execSrWaitFall s
  | .srNext _ => Sys2Proof.Machine.execSrNext s
  | .srLast _ => Sys2Proof.Machine.execSrLast s
  -- assembler operations (R108)
  | .aClosed _ => Sys2Proof.Machine.execAClosed s
  | .aEos _ => Sys2Proof.Machine.execAEos s
  | .aIdle _ => Sys2Proof.Machine.execAIdle s
  | .aAccept _ => Sys2Proof.Machine.execAAccept s
  | .aComplete => Sys2Proof.Machine.execAComplete s
  | .aStall => Sys2Proof.Machine.execAStall s
  -- FIFO operations (R109)
  | .fifoIdle => Sys2Proof.Machine.execFifoIdle s
  | .fifoPush => Sys2Proof.Machine.execFifoPush s
  | .fifoPop => Sys2Proof.Machine.execFifoPop s
  | .fifoPushPop => Sys2Proof.Machine.execFifoPushPop s

end Sys2Proof.Machine
end

