-- ==== Sys2Proof/Machine/Fetch.lean ====
section
/-! DEFINITION. How an operation comes to be the one the next step selects. The block fetches no instruction (spec/20_memory.md R86): a
selector word is formed from state and inputs (spec/30_encoding.md R101, R102, R107, R109), so placing a word means choosing the
inputs and registers that form it (notes/assumptions/8.md). -/

namespace Sys2Proof.Machine

/-- The operation the next step performs at the top: RESET or STEP (R101). -/
def State.fetch (s : State) : Instr := decodeG s.selG

/-- The `fsm` state of a two-bit code (R33). -/
def Fsm.ofBits (b1 b0 : Bool) : Fsm :=
  match b1, b0 with
  | false, false => .awl
  | false, true => .sl
  | true, false => .awh
  | true, true => .sr

/-- `count` chosen to be `n`, with `wr_ptr` where R58 has it. -/
def Fifo.withCount (q : Fifo) (c n : Nat) : Fifo := { q with count := n, wrPtr := (q.rdPtr + n) % c }

/-- `fifo_ne` chosen to be `ne`: one entry where there was none, none where there was one. -/
def State.placeNe (s : State) (ne : Bool) : State :=
  if s.fifoNe = ne then s
  else s.setFifo (s.fifo.withCount s.params.fifoDepth (if ne then 1 else 0))

/-- `fifo_nf` chosen to be `nf`: none where the FIFO was full, full where it was not. -/
def State.placeNf (s : State) (nf : Bool) : State :=
  if s.fifoNf = nf then s
  else s.setFifo (s.fifo.withCount s.params.fifoDepth (if nf then 0 else s.params.fifoDepth))

/-- The state that forms the global selector word `w` (R101). -/
def State.placeG (s : State) (w : Nat) : State :=
  { s with stimulus := InputWord.pack (w.testBit 0) false false false false false 0 :: s.stimulus }

/-- The state that forms the follower selector word `w` (R102), `rst` being 0 and no byte offered. -/
def State.placeF (s : State) (w : Nat) : State :=
  let bclk := if w.testBit 2 then true else if w.testBit 1 then false else s.bclkS
  let prev := if w.testBit 2 then false else if w.testBit 1 then true else bclk
  let last := s.params.syncStages - 1
  let t := s.placeNe (w.testBit 4)
  { t with
    follower := { t.follower with
      fsm := Fsm.ofBits (w.testBit 8) (w.testBit 7)
      phase := if w.testBit 6 then .waitFall else .waitRise
      frameValid := w.testBit 5
      idx := if w.testBit 0 then 0 else if t.follower.idx = 0 then 15 else t.follower.idx }
    sync := { bsync := t.sync.bsync.set last bclk, wsync := t.sync.wsync.set last (w.testBit 3), bclkPrev := prev }
    stimulus := InputWord.pack false (w.testBit 9) false false false false 0 :: t.stimulus }

/-- The state that forms the assembler selector word `w` (R107), `rst` and `run` being 0. -/
def State.placeA (s : State) (w : Nat) : State :=
  let t := s.placeNf (w.testBit 0)
  { t with
    assembler := { t.assembler with
      eosSeen := w.testBit 4
      bcnt := if w.testBit 1 then 3 else if t.assembler.bcnt = 3 then 0 else t.assembler.bcnt }
    stimulus := InputWord.pack false false false false (w.testBit 2) (w.testBit 3) 0 :: t.stimulus }

/-- The state that forms the FIFO selector word `w` (R109, R53): `push` needs a fourth byte and room, `pop` a frame boundary, `run = 1`
and an entry. Both together need `0 < count < C` (R174), which no FIFO with `C = 1` has. -/
def State.placeP (s : State) (w : Nat) : State :=
  let t := if w.testBit 0 then s.placeNe true else s
  let t := if w.testBit 1 && !t.fifoNf then t.setFifo (t.fifo.withCount t.params.fifoDepth (t.params.fifoDepth - 1)) else t
  let t := if w.testBit 0 then t.setFollower { t.follower with fsm := .awl, frameValid := false } else t
  let t := if w.testBit 1 then t.setAssembler { t.assembler with eosSeen := false, bcnt := 3 } else t
  { t with stimulus := InputWord.pack false (w.testBit 0) false false (w.testBit 1) false 0 :: t.stimulus }

/-- The state in which the next step forms the selector word `w` of the table `fmt`. -/
def State.placeWord (s : State) (fmt : Format) (w : Nat) : State :=
  match fmt with
  | .global => s.placeG w
  | .follower => s.placeF w
  | .assembler => s.placeA w
  | .fifo => s.placeP w

end Sys2Proof.Machine
end

