-- ==== Sys2Proof/Machine/Step.lean ====
section
/-! DEFINITION. One step of the block: one rising edge of `clk` (spec/00_scope.md R16). -/

namespace Sys2Proof.Machine

/-- One step: the global operation the input vector selects (R101), after which that input vector is consumed (R113). -/
def step (s : State) : Host.Outcome State Fault Refusal :=
  consumed (exec s.fetch s)

/-- The state `s` in which the very next step performs the operation whose word is `w` (the host's name): notes/assumptions/8.md. A
word that decodes to no operation changes nothing. -/
def State.withFetchWord (s : State) (nbits w : Nat) : State :=
  match decodeTableWord nbits w, tableFormat nbits w with
  | some _, some fmt => s.placeWord fmt w
  | _, _ => s

end Sys2Proof.Machine
end

