-- ==== Sys2Proof/Machine/Stimulus.lean ====
section
/-! DEFINITION. The stimulus notation of spec/30_encoding.md R115, expanded to input vectors (R114). The byte side waits for `in_ready`, so it is
expanded along the run of the block it drives; the pin side is not. No step of the block uses it. -/

namespace Sys2Proof.Machine

/-- The byte-side constructs of R115. -/
inductive ByteConstruct where
  /-- `BYTES b0 b1 ...`: each byte is held offered until a step with `in_ready = 1`. -/
  | bytes (bs : List Byte)
  /-- `GAP n`: `n` steps with `in_valid = 0`. -/
  | gap (n : Nat)
  /-- `EOS`: `in_eos = 1` for one step. -/
  | eos
  deriving DecidableEq, Repr

/-- The pin-side constructs of R115. -/
inductive PinConstruct where
  /-- `MASTER H=h S=n FR=k WS0=w PRE=p`. -/
  | master (h n k : Nat) (w : Bool) (p : Nat)
  /-- `IDLE n`: the pins held at their last value. -/
  | idle (n : Nat)
  deriving DecidableEq, Repr

/-- A stimulus program: the byte side, the pin side, and the steps from which a `RUN v` holds, earliest first. -/
structure Stimulus where
  byteSide : List ByteConstruct
  pinSide : List PinConstruct
  runSide : List (Nat × Bool)
  deriving DecidableEq, Repr

/-- `RST`: one step with `rst = 1`, other inputs 0 (R115). -/
def rstWord : InputWord := InputWord.pack true false false false false false 0

/-- The `(bclk, ws)` levels of one slot: `n` periods, each `h` steps low and `h` steps high, with `ws = w`. -/
def slotPins (h n : Nat) (w : Bool) : List (Bool × Bool) :=
  (List.replicate n (List.replicate h (false, w) ++ List.replicate h (true, w))).flatten

/-- The `(bclk, ws)` levels of the pin side, `last` being the pins' last value. -/
def expandPins (last : Bool × Bool) : List PinConstruct → List (Bool × Bool)
  | [] => []
  | .idle n :: rest => List.replicate n last ++ expandPins last rest
  | .master h n k w p :: rest =>
    let here := List.replicate p (false, w) ++ (List.replicate k (slotPins h n false ++ slotPins h n true)).flatten
    here ++ expandPins (here.getLastD last) rest

/-- The byte side with the constructs that are over removed from its front. -/
def trimBytes : List ByteConstruct → List ByteConstruct
  | .bytes [] :: rest => trimBytes rest
  | .gap 0 :: rest => trimBytes rest
  | cs => cs

/-- What the byte side drives in a step: `in_valid`, `in_eos`, `in_byte`. Each construct starts when the one before it is over, so an
`EOS` written after a `GAP` waits for the `GAP` to end: DESIGN CHOICE, notes/assumptions/11.md. -/
def byteInputs (cs : List ByteConstruct) : Bool × Bool × Byte :=
  match trimBytes cs with
  | .bytes (b :: _) :: _ => (true, false, b)
  | .eos :: _ => (false, true, 0)
  | _ => (false, false, 0)

/-- The byte side after a step that did or did not accept the byte offered. -/
def byteAdvance (accepted : Bool) (cs : List ByteConstruct) : List ByteConstruct :=
  match trimBytes cs with
  | .bytes (b :: bs) :: rest => if accepted then .bytes bs :: rest else .bytes (b :: bs) :: rest
  | .gap (n + 1) :: rest => .gap n :: rest
  | .eos :: rest => rest
  | other => other

/-- The level of `run` in step `t`: that of the last `RUN` before it, and `v` where there is none. -/
def runLevel (t : Nat) : List (Nat × Bool) → Bool → Bool
  | [], v => v
  | (t', v') :: rest, v => if t' ≤ t then runLevel t rest v' else v

/-- The input vectors of the steps from step `t` on, one for each pin level listed, along the run of the block from `s`. Before the first
`RUN`, `run` is 0: DESIGN CHOICE, notes/assumptions/12.md. -/
def driveFrom (bytes : List ByteConstruct) (runSide : List (Nat × Bool)) : Nat → List (Bool × Bool) → State → List InputWord
  | _, [], _ => []
  | t, (bclk, ws) :: pins, s =>
    let (valid, eos, byte) := byteInputs bytes
    let i := InputWord.pack false (runLevel t runSide false) bclk ws valid eos byte
    let s' := s.withInput i
    match step s' with
    | .next u => i :: driveFrom (byteAdvance s'.accept bytes) runSide (t + 1) pins u
    | .fault _ => [i]
    | .refused _ => [i]

/-- The whole program from step 0 (the first step after `RST`), on a block in state `s`. Before the first pin construct the pins are 0, so an
`IDLE` that comes first holds them at 0: DESIGN CHOICE, notes/assumptions/12.md. -/
def Stimulus.words (p : Stimulus) (s : State) : List InputWord :=
  driveFrom p.byteSide p.runSide 0 (expandPins (false, false) p.pinSide) s

end Sys2Proof.Machine
end

