-- ==== Sys2Proof/Machine/Reference.lean ====
section
/-! DEFINITION. The state machine of spec/40_follower.md R130 (with the pop of R134 to R136), the ring buffer of spec/41_fifo.md R170 to
R174 and the assembler of spec/42_assembler.md R192 to R197, written a second time as the prose gives them, by state and condition
and without selector words. `step` does not use it: statements compare the two. -/

namespace Sys2Proof.Machine.Reference

/-- The follower's next registers, by the four states of R130; `head` is the oldest FIFO entry (R52). -/
def follower (s : State) (head : FrameWord) : Follower :=
  let f := s.follower
  if s.input.run then
    match f.fsm with
    | .awl =>
      if f.frameValid then
        if s.wsS then f else { f with fsm := .sl, phase := .waitRise, idx := 15 }
      else if s.fifo.count = 0 then f
      else if s.wsS then { f with frame := head, frameValid := true }
      else { f with frame := head, frameValid := true, fsm := .sl, phase := .waitRise, idx := 15 }
    | .sl =>
      match f.phase with
      | .waitRise => if s.rise then { f with sd := f.frame.getLsbD (16 + f.idx.toNat), phase := .waitFall } else f
      | .waitFall =>
        if s.fall then
          if f.idx = 0 then { f with fsm := .awh, phase := .waitRise }
          else { f with idx := f.idx - 1, phase := .waitRise }
        else f
    | .awh => if s.wsS then { f with fsm := .sr, phase := .waitRise, idx := 15 } else f
    | .sr =>
      match f.phase with
      | .waitRise => if s.rise then { f with sd := f.frame.getLsbD f.idx.toNat, phase := .waitFall } else f
      | .waitFall =>
        if s.fall then
          if f.idx = 0 then
            { f with fsm := .awl, phase := .waitRise, frameValid := false, framesTx := f.framesTx + 1 }
          else { f with idx := f.idx - 1, phase := .waitRise }
        else f
  else f

/-- The FIFO's next registers: an appended word, a removed word, or both (R170, R172 to R174). -/
def fifo (s : State) : Fifo :=
  { mem := if s.push then s.fifo.mem.write s.fifo.wrPtr s.word else s.fifo.mem
    wrPtr := if s.push then (s.fifo.wrPtr + 1) % s.params.fifoDepth else s.fifo.wrPtr
    rdPtr := if s.pop then (s.fifo.rdPtr + 1) % s.params.fifoDepth else s.fifo.rdPtr
    count := if s.push && !s.pop then s.fifo.count + 1 else if s.pop && !s.push then s.fifo.count - 1 else s.fifo.count }

/-- The assembler's next registers, by what was accepted (R192 to R197, R53). -/
def assembler (s : State) : Assembler :=
  let a := s.assembler
  if a.eosSeen then a
  else if s.input.inEos then { a with eosSeen := true, bcnt := 0 }
  else if s.accept then
    if a.bcnt = 3 then { a with bcnt := 0, bytesRx := a.bytesRx + 1 }
    else { a with carry := a.carry.set a.bcnt s.input.inByte, bcnt := a.bcnt + 1, bytesRx := a.bytesRx + 1 }
  else a

end Sys2Proof.Machine.Reference
end

