-- ==== Sys2Proof/Safety.lean ====
section
/-! DEFINITION. What claims about the block are stated in: its invariant (spec/10_state.md R56 to R60), the end of a run
(spec/60_exceptions.md R226), the events of a step and the record of a run's events. -/

namespace Sys2Proof.Machine

/-! ## The invariant -/

/-- The FIFO part: pointers name slots, the count is in `[0, C]`, `wr_ptr = (rd_ptr + count) mod C`, every live slot was written (R58),
and the storage is canonical. -/
structure Fifo.Inv (c : Nat) (q : Fifo) : Prop where
  rdPtr_lt : q.rdPtr < c
  wrPtr_eq : q.wrPtr = (q.rdPtr + q.count) % c
  count_le : q.count ≤ c
  live_written : ∀ k, k < q.count → q.mem.written ((q.rdPtr + k) % c) = true
  mem_wf : q.mem.wf c = true

/-- The invariant of the block: R56 to R59 (R60 and `bcnt <= 3` hold by width), `C >= 1` and `N >= 1` (R10, R11), and `N` stages in each
synchroniser chain (R39). -/
structure State.Inv (s : State) : Prop where
  params_wf : s.params.wellFormed = true
  bsync_length : s.sync.bsync.length = s.params.syncStages
  wsync_length : s.sync.wsync.length = s.params.syncStages
  frame_held : s.follower.fsm ≠ .awl → s.follower.frameValid = true
  phase_clear : s.follower.fsm = .awl ∨ s.follower.fsm = .awh → s.follower.phase = .waitRise
  eos_clears : s.assembler.eosSeen = true → s.assembler.bcnt = 0
  fifo_inv : s.fifo.Inv s.params.fifoDepth

/-- The live entries of the FIFO, oldest first (R58): the abstract queue that the ring buffer stands for. -/
def State.entries (s : State) : List FrameWord :=
  (List.range s.fifo.count).map fun k => s.fifo.mem.read ((s.fifo.rdPtr + k) % s.params.fifoDepth)

/-! ## The end of a run (R226) -/

/-- `session_complete := session_done`. -/
def State.sessionComplete (s : State) : Bool := s.sessionDone

/-- `tx_complete := session_done and (fsm = AWL) and (frame_valid = 0)`. -/
def State.txComplete (s : State) : Bool := s.sessionDone && s.follower.fsm == .awl && !s.follower.frameValid

/-! ## Events of a step -/

/-- The follower is in a shift state. -/
def State.shifting (s : State) : Bool := s.follower.fsm == .sl || s.follower.fsm == .sr

/-- A present step (R19): SL_PRESENT or SR_PRESENT performs. -/
def State.presentStep (s : State) : Bool :=
  !s.input.rst && s.input.run && s.shifting && s.follower.phase == .waitRise && s.rise

/-- A word end (R248): SL_LAST or SR_LAST performs. -/
def State.wordEnd (s : State) : Bool :=
  !s.input.rst && s.input.run && s.shifting && s.follower.phase == .waitFall && s.fall && s.idxZero

/-- `present_bit` (R110). -/
def State.presentBit (s : State) : Bool := if s.follower.fsm = .sl then s.leftBit else s.rightBit

/-- The bit presented in this step, if one is. -/
def State.presentedNow (s : State) : List Bool := if s.presentStep then [s.presentBit] else []

/-- The word popped in this step, if one is. -/
def State.poppedNow (s : State) : List FrameWord := if s.pop then [s.fifo.mem.read s.fifo.rdPtr] else []

/-- The word pushed in this step, if one is. -/
def State.pushedNow (s : State) : List FrameWord := if s.push then [s.word] else []

/-- The byte accepted in this step, if one is (R19). -/
def State.acceptedNow (s : State) : List Byte := if s.accept then [s.input.inByte] else []

/-! ## Runs -/

/-- What `obs` sees along the first `n` steps from `s`, in order. -/
def record {α : Type} (obs : State → List α) : Nat → State → List α
  | 0, _ => []
  | n + 1, s =>
    match step s with
    | .next t => obs s ++ record obs n t
    | .fault _ => []
    | .refused _ => []

/-- The state after `n` steps from `s`, or the first stop. -/
def runFor : Nat → State → Result
  | 0, s => .next s
  | n + 1, s =>
    match step s with
    | .next t => runFor n t
    | .fault r => .fault r
    | .refused r => .refused r

/-- A session's input: every vector has `rst = 0` (R19). -/
def noReset (is : List InputWord) : Bool := is.all fun i => !i.rst

/-- A block with parameters `p` just after reset, with the input vectors `is` chosen for its first steps. -/
def freshWith (p : Params) (is : List InputWord) : State := { State.resetWith p with stimulus := is }

/-! ## What the streams mean -/

/-- The frames of a byte stream: 4-byte groups, an incomplete last group left out (R72, R73, R198). -/
def framesOf : List Byte → List FrameWord
  | b0 :: b1 :: b2 :: b3 :: rest => (b1 ++ b0 ++ b3 ++ b2) :: framesOf rest
  | _ => []

/-- The bits of a frame in the order they go out: `word[31]` first, `word[0]` last (R75). -/
def serialBits (w : FrameWord) : List Bool := (List.range 32).map fun k => w.getLsbD (31 - k)

/-- How many bits of the held frame are still to be presented (R60, R151). -/
def State.bitsLeft (s : State) : Nat :=
  let inWord := match s.follower.phase with
    | .waitRise => s.follower.idx.toNat + 1
    | .waitFall => s.follower.idx.toNat
  if s.follower.frameValid then
    match s.follower.fsm with
    | .awl => 32
    | .sl => 16 + inWord
    | .awh => 16
    | .sr => inWord
  else 0

end Sys2Proof.Machine
end

