-- ==== Sys2Proof/Certificates/Slice0/Obligations.lean ====
section
/-! DEFINITION. The statements about the block for the provers. Each docstring names the rule of spec/ it formalises; a statement about a
next state says that there is one, under hypotheses on the state and its inputs alone. -/

open Sys2Proof Sys2Proof.Machine

/-! ## Encoding -/

/-- Selector words written out bit by bit from the patterns of R101, R104, R108 and R109, first byte least significant, decode to the
operations they stand for, and a word with rise and fall together is refused (R106). The layout in bytes is the model's choice
(notes/assumptions/4.md). -/
def Obligations.SelectorWordsDecodeToTheirRows : Prop :=
  decode .global [0b00000001] = .ok .reset ∧
  decode .global [0b00000000] = .ok .step ∧
  decode .follower [0b00011001, 0b10] = .ok (.awlPop 0b0001) ∧
  decode .follower [0b10100100, 0b10] = .ok (.slPresent 0b10000) ∧
  decode .follower [0b00101001, 0b11] = .ok (.awhStart 0b010001) ∧
  decode .follower [0b11101011, 0b11] = .ok (.srLast 0b1010) ∧
  decode .assembler [0b00001101] = .ok (.aEos 0b101) ∧
  decode .assembler [0b00000111] = .ok .aComplete ∧
  decode .fifo [0b00000011] = .ok .fifoPushPop ∧
  decode .follower [0b10000110, 0b10] = .error .riseAndFall

/-- Decode and encode agree: every well-formed instruction, with its untested bits at every value R106 allows, decodes from the bytes it
encodes to. The layout in bytes is the model's choice (notes/assumptions/4.md). -/
def Obligations.EncodedInstructionsDecodeBack : Prop :=
  ∀ i : Instr, i.wellFormed = true → decode i.format (encode i) = .ok i

/-- Every byte string the decoder accepts is the encoding of the well-formed instruction it answers: no bit of a selector word is
dropped, and no reserved word (R106) is accepted. The layout in bytes is the model's choice (notes/assumptions/4.md). -/
def Obligations.DecodedBytesEncodeBack : Prop :=
  ∀ (fmt : Format) (bytes : List Byte) (i : Instr), decode fmt bytes = .ok i →
    i.wellFormed = true ∧ i.format = fmt ∧ encode i = bytes

/-- R105 and R106 (both derived in the spec; C8): each of the 1024 follower selector values matches exactly one row. The decoder answers an
operation of that row, but for the values with rise and fall together, which it refuses as unformable. -/
def Obligations.FollowerSelectorMatchesExactlyOneRow : Prop :=
  ∀ f : BitVec 10,
    (∃ i : Instr, i.format = .follower ∧ f &&& i.rowMask = i.rowMatch ∧
      ∀ j : Instr, j.format = .follower → f &&& j.rowMask = j.rowMatch →
        j.rowMask = i.rowMask ∧ j.rowMatch = i.rowMatch) ∧
    (f &&& 0x006 = 0x006 → decodeF f = .error .riseAndFall) ∧
    (f &&& 0x006 ≠ 0x006 → ∃ i, decodeF f = .ok i ∧ i.format = .follower ∧ f &&& i.rowMask = i.rowMatch)

/-- R108: every assembler selector value matches exactly one row, and in a step with `rst = 0` the row gives `in_ready`. -/
def Obligations.AssemblerSelectorMatchesOneRowAndGivesInReady : Prop :=
  (∀ a : BitVec 5, ∃ i, decodeA a = .ok i ∧ i.format = .assembler ∧ a.setWidth 10 &&& i.rowMask = i.rowMatch ∧
    ∀ j : Instr, j.format = .assembler → a.setWidth 10 &&& j.rowMask = j.rowMatch →
      j.rowMask = i.rowMask ∧ j.rowMatch = i.rowMatch) ∧
  (∀ s : State, s.input.rst = false →
    (∀ x, decodeA s.selA = .ok (.aClosed x) → s.inReady = false) ∧
    (∀ x, decodeA s.selA = .ok (.aEos x) → s.inReady = false) ∧
    (∀ x, decodeA s.selA = .ok (.aIdle x) →
      (s.inReady = true ↔ s.assembler.bcnt ≠ 3 ∨ s.fifo.count ≠ s.params.fifoDepth)) ∧
    (∀ x, decodeA s.selA = .ok (.aAccept x) → s.inReady = true) ∧
    (decodeA s.selA = .ok .aComplete → s.inReady = true) ∧
    (decodeA s.selA = .ok .aStall → s.inReady = false))

/-- R109: the FIFO operation is chosen by push and pop; a push never meets a full FIFO and a pop never meets an empty one. -/
def Obligations.FifoSelectorIsPushAndPop : Prop :=
  ∀ s : State, s.Inv →
    (s.push = false → s.pop = false → decodeP s.selP = .fifoIdle) ∧
    (s.push = true → s.pop = false → decodeP s.selP = .fifoPush) ∧
    (s.push = false → s.pop = true → decodeP s.selP = .fifoPop) ∧
    (s.push = true → s.pop = true → decodeP s.selP = .fifoPushPop) ∧
    (s.push = true → s.fifo.count < s.params.fifoDepth) ∧
    (s.pop = true → 0 < s.fifo.count)

/-! ## Signals -/

/-- R51 and R52: the pin samples are the last stages, a rise and a fall are the two changes of the sample, and they are never both 1. -/
def Obligations.EdgesAreChangesOfTheLastStage : Prop :=
  ∀ s : State, s.Inv →
    s.sync.bsync[s.params.syncStages - 1]? = some s.bclkS ∧
    s.sync.wsync[s.params.syncStages - 1]? = some s.wsS ∧
    (s.rise = true ↔ s.sync.bclkPrev = false ∧ s.bclkS = true) ∧
    (s.fall = true ↔ s.sync.bclkPrev = true ∧ s.bclkS = false) ∧
    ¬(s.rise = true ∧ s.fall = true)

/-- R53: the handshake. -/
def Obligations.HandshakeSignalsFollowTheirEquations : Prop :=
  ∀ s : State,
    (s.inReady = true ↔ s.input.rst = false ∧ s.assembler.eosSeen = false ∧ s.input.inEos = false ∧
      (s.assembler.bcnt ≠ 3 ∨ s.fifo.count ≠ s.params.fifoDepth)) ∧
    (s.accept = true ↔ s.input.inValid = true ∧ s.inReady = true) ∧
    (s.push = true ↔ s.accept = true ∧ s.assembler.bcnt = 3) ∧
    s.word = s.assembler.carry.c1 ++ s.assembler.carry.c0 ++ s.input.inByte ++ s.assembler.carry.c2 ∧
    (s.pop = true ↔ s.input.rst = false ∧ s.input.run = true ∧ s.follower.fsm = .awl ∧
      s.follower.frameValid = false ∧ s.fifo.count ≠ 0) ∧
    (s.push = true → s.fifo.count ≠ s.params.fifoDepth) ∧
    (s.pop = true → s.fifo.count ≠ 0)

/-- R54: the status outputs; `starved` is 1 straight after reset. -/
def Obligations.StatusOutputsFollowTheirEquations : Prop :=
  (∀ s : State,
    s.outputs.fifoLevel = s.fifo.count ∧
    (s.outputs.starved = true ↔ s.follower.fsm = .awl ∧ s.follower.frameValid = false ∧ s.fifo.count = 0) ∧
    (s.outputs.sessionDone = true ↔ s.assembler.eosSeen = true ∧ s.fifo.count = 0)) ∧
  (∀ p : Params, (State.resetWith p).outputs.starved = true)

/-! ## A step runs the operations its selector words decode to -/

/-- R101 and R113: one step performs the global operation its selector decodes to and consumes its input vector. The list of
input vectors is the model's choice (notes/assumptions/3.md). -/
def Obligations.StepPerformsTheDecodedGlobalOperation : Prop :=
  ∀ s : State,
    (∀ i : Instr, decode .global [BitVec.ofNat 8 s.selG.toNat] = .ok i → step s = consumed (exec i s)) ∧
    (s.input.rst = true → decode .global [BitVec.ofNat 8 s.selG.toNat] = .ok .reset) ∧
    (s.input.rst = false → decode .global [BitVec.ofNat 8 s.selG.toNat] = .ok .step) ∧
    (∀ t : State, step s = .next t → t.stimulus = s.stimulus.tail)

/-- R100 and R111: when the three selector words decode to a follower, a FIFO and an assembler operation that answer next states, STEP answers the
state that takes each register from its writer, with the synchroniser updated (R39, R40). -/
def Obligations.StepComposesTheDecodedOperations : Prop :=
  ∀ (s tf tq ta : State) (f a p : Instr),
    decode .follower (layout .follower s.selF.toNat) = .ok f →
    decode .assembler (layout .assembler s.selA.toNat) = .ok a →
    decode .fifo (layout .fifo s.selP.toNat) = .ok p →
    exec f s = .next tf → exec p s = .next tq → exec a s = .next ta →
    exec .step s = .next { s with
      follower := tf.follower
      fifo := tq.fifo
      assembler := ta.assembler
      sync :=
        { bsync := (s.input.bclk :: s.sync.bsync).take s.sync.bsync.length
          wsync := (s.input.ws :: s.sync.wsync).take s.sync.wsync.length
          bclkPrev := s.bclkS } }

/-- R111: an operation changes registers of its own sub-block only. -/
def Obligations.OperationsWriteOnlyTheirOwnRegisters : Prop :=
  ∀ (i : Instr) (s t : State), exec i s = .next t →
    (i.format = .follower → t = { s with follower := t.follower }) ∧
    (i.format = .fifo → t = { s with fifo := t.fifo }) ∧
    (i.format = .assembler → t = { s with assembler := t.assembler })

/-- R100: in every state, each of the three selector words decodes to a well-formed operation of its own table. -/
def Obligations.EveryStateSelectsOneOperationPerTable : Prop :=
  ∀ s : State, ∃ f a p : Instr,
    decode .follower (layout .follower s.selF.toNat) = .ok f ∧ f.format = .follower ∧ f.wellFormed = true ∧
    decode .assembler (layout .assembler s.selA.toNat) = .ok a ∧ a.format = .assembler ∧
    decode .fifo (layout .fifo s.selP.toNat) = .ok p ∧ p.format = .fifo

/-! ## What each operation does, with its frame -/

/-- The pseudocode "no change" of R133, R134, R137, R139, R141, R144, R146 and R148. -/
def Obligations.WaitingFollowerOperationsChangeNothing : Prop :=
  ∀ s : State,
    (∀ x, exec (.fHold x) s = .next s) ∧
    (∀ x, exec (.awlStarve x) s = .next s) ∧
    (∀ x, exec (.awlWait x) s = .next s) ∧
    (∀ x, exec (.slWaitRise x) s = .next s) ∧
    (∀ x, exec (.slWaitFall x) s = .next s) ∧
    (∀ x, exec (.awhWait x) s = .next s) ∧
    (∀ x, exec (.srWaitRise x) s = .next s) ∧
    (∀ x, exec (.srWaitFall x) s = .next s)

/-- The pseudocode of R135 and R136. The fault where `rd_ptr` names no slot is the model's own (notes/assumptions/6.md). -/
def Obligations.PopOperationsLoadTheHead : Prop :=
  ∀ s : State,
    (s.fifo.rdPtr < s.params.fifoDepth →
      (∀ x, exec (.awlPop x) s = .next { s with follower := { s.follower with
          frame := s.fifo.mem.read s.fifo.rdPtr, frameValid := true } }) ∧
      (∀ x, exec (.awlPopStart x) s = .next { s with follower := { s.follower with
          frame := s.fifo.mem.read s.fifo.rdPtr, frameValid := true, fsm := .sl, phase := .waitRise, idx := 15 } })) ∧
    (s.params.fifoDepth ≤ s.fifo.rdPtr →
      (∀ x, exec (.awlPop x) s = .fault .noSuchSlot) ∧ (∀ x, exec (.awlPopStart x) s = .fault .noSuchSlot))

/-- The pseudocode of R138, R140, R142, R143, R145, R147, R149 and R150, with the operand of R110. -/
def Obligations.MovingFollowerOperationsWriteTheirRegisters : Prop :=
  ∀ s : State,
    (∀ x, exec (.awlStart x) s = .next { s with follower := { s.follower with
        fsm := .sl, phase := .waitRise, idx := 15 } }) ∧
    (∀ x, exec (.slPresent x) s = .next { s with follower := { s.follower with
        sd := s.follower.frame.getLsbD (16 + s.follower.idx.toNat), phase := .waitFall } }) ∧
    (∀ x, exec (.slNext x) s = .next { s with follower := { s.follower with
        idx := s.follower.idx - 1, phase := .waitRise } }) ∧
    (∀ x, exec (.slLast x) s = .next { s with follower := { s.follower with
        fsm := .awh, phase := .waitRise } }) ∧
    (∀ x, exec (.awhStart x) s = .next { s with follower := { s.follower with
        fsm := .sr, phase := .waitRise, idx := 15 } }) ∧
    (∀ x, exec (.srPresent x) s = .next { s with follower := { s.follower with
        sd := s.follower.frame.getLsbD s.follower.idx.toNat, phase := .waitFall } }) ∧
    (∀ x, exec (.srNext x) s = .next { s with follower := { s.follower with
        idx := s.follower.idx - 1, phase := .waitRise } }) ∧
    (∀ x, exec (.srLast x) s = .next { s with follower := { s.follower with
        fsm := .awl, phase := .waitRise, frameValid := false, framesTx := s.follower.framesTx + 1 } })

/-- The pseudocode of R171 to R174, read through `Memory.read` (R17). Two clauses are the model's choice: the fault where `wr_ptr` names no
slot (notes/assumptions/6.md), and that FIFO_POP performed on `count = 0`, where R173 has `count > 0`, leaves the count 0
(notes/assumptions/7.md). -/
def Obligations.FifoOperationsMoveThePointers : Prop :=
  ∀ s : State,
    exec .fifoIdle s = .next s ∧
    exec .fifoPop s = .next { s with fifo := { s.fifo with
      rdPtr := (s.fifo.rdPtr + 1) % s.params.fifoDepth, count := s.fifo.count - 1 } } ∧
    (s.fifo.wrPtr < s.params.fifoDepth → ∃ m : Memory,
      m.read s.fifo.wrPtr = s.word ∧ (∀ p, p ≠ s.fifo.wrPtr → m.read p = s.fifo.mem.read p) ∧
      exec .fifoPush s = .next { s with fifo := { s.fifo with
        mem := m, wrPtr := (s.fifo.wrPtr + 1) % s.params.fifoDepth, count := s.fifo.count + 1 } } ∧
      exec .fifoPushPop s = .next { s with fifo := { s.fifo with
        mem := m, wrPtr := (s.fifo.wrPtr + 1) % s.params.fifoDepth,
        rdPtr := (s.fifo.rdPtr + 1) % s.params.fifoDepth } }) ∧
    (s.params.fifoDepth ≤ s.fifo.wrPtr →
      exec .fifoPush s = .fault .noSuchSlot ∧ exec .fifoPushPop s = .fault .noSuchSlot)

/-- The pseudocode of R192 to R197. -/
def Obligations.AssemblerOperationsPackBytes : Prop :=
  ∀ s : State,
    (∀ x, exec (.aClosed x) s = .next s) ∧
    (∀ x, exec (.aIdle x) s = .next s) ∧
    exec .aStall s = .next s ∧
    (∀ x, exec (.aEos x) s = .next { s with assembler := { s.assembler with eosSeen := true, bcnt := 0 } }) ∧
    exec .aComplete s = .next { s with assembler := { s.assembler with
      bcnt := 0, bytesRx := s.assembler.bytesRx + 1 } } ∧
    (∀ x, s.assembler.bcnt = 0 → exec (.aAccept x) s = .next { s with assembler := { s.assembler with
      carry := { s.assembler.carry with c0 := s.input.inByte }, bcnt := 1, bytesRx := s.assembler.bytesRx + 1 } }) ∧
    (∀ x, s.assembler.bcnt = 1 → exec (.aAccept x) s = .next { s with assembler := { s.assembler with
      carry := { s.assembler.carry with c1 := s.input.inByte }, bcnt := 2, bytesRx := s.assembler.bytesRx + 1 } }) ∧
    (∀ x, s.assembler.bcnt = 2 → exec (.aAccept x) s = .next { s with assembler := { s.assembler with
      carry := { s.assembler.carry with c2 := s.input.inByte }, bcnt := 3, bytesRx := s.assembler.bytesRx + 1 } })

/-- R240: RESET loads every register's reset value, does not write `mem`, takes no byte and lets no frame leave, and the other inputs
of the step have no effect. -/
def Obligations.ResetLoadsEveryResetValue : Prop :=
  ∀ s : State,
    exec .reset s = .next { s with
      follower := { fsm := .awl, phase := .waitRise, idx := 0, frame := 0x00000000, frameValid := false,
                    sd := false, framesTx := 0 }
      sync := { bsync := List.replicate s.params.syncStages false, wsync := List.replicate s.params.syncStages false,
                bclkPrev := false }
      fifo := { mem := s.fifo.mem, rdPtr := 0, wrPtr := 0, count := 0 }
      assembler := { carry := { c0 := 0x00, c1 := 0x00, c2 := 0x00 }, bcnt := 0, eosSeen := false, bytesRx := 0 } } ∧
    (s.input.rst = true →
      step s = consumed (exec .reset s) ∧ s.inReady = false ∧ s.accept = false ∧ s.push = false ∧ s.pop = false)

/-! ## The rules as they show in a step -/

/-- R133: with `run = 0` the follower is frozen and does not pop, while the synchroniser and `bclk_prev` update, so that an edge is lost. -/
def Obligations.StoppedFollowerIsFrozen : Prop :=
  ∀ s : State, s.Inv → s.input.rst = false → s.input.run = false →
    (∃ x, decodeF s.selF = .ok (.fHold x)) ∧ s.pop = false ∧
    ∃ t : State, step s = .next t ∧ t.follower = s.follower ∧ t.fifo.rdPtr = s.fifo.rdPtr ∧
      t.sync.bclkPrev = s.bclkS ∧
      t.sync.bsync = (s.input.bclk :: s.sync.bsync).take s.params.syncStages ∧
      t.sync.wsync = (s.input.ws :: s.sync.wsync).take s.params.syncStages

/-- R134: at a frame boundary with an empty FIFO the follower waits, whatever WS and BCLK do, and even when a frame is pushed in that very
step (no bypass, R83). -/
def Obligations.StarvedFollowerWaits : Prop :=
  ∀ s : State, s.Inv → s.input.rst = false → s.input.run = true →
    s.follower.fsm = .awl → s.follower.frameValid = false → s.fifo.count = 0 →
    (∃ x, decodeF s.selF = .ok (.awlStarve x)) ∧ s.starved = true ∧
    ∃ t : State, step s = .next t ∧ t.follower = s.follower ∧ t.fifo.rdPtr = s.fifo.rdPtr ∧
      (s.push = false → t.starved = true) ∧ (s.push = true → t.starved = false)

/-- R135 and R136: at a frame boundary with a frame waiting, the follower takes the head, the FIFO drops it, and with WS low the left
channel starts in the same step. -/
def Obligations.FrameIsPoppedAtTheBoundary : Prop :=
  ∀ s : State, s.Inv → s.input.rst = false → s.input.run = true →
    s.follower.fsm = .awl → s.follower.frameValid = false → s.fifo.count ≠ 0 →
    (s.wsS = true → ∃ x, decodeF s.selF = .ok (.awlPop x)) ∧
    (s.wsS = false → ∃ x, decodeF s.selF = .ok (.awlPopStart x)) ∧
    s.pop = true ∧ ∃ t : State, step s = .next t ∧ t.starved = false ∧
      t.fifo.rdPtr = (s.fifo.rdPtr + 1) % s.params.fifoDepth ∧
      (s.push = false → t.fifo.count + 1 = s.fifo.count) ∧ (s.push = true → t.fifo.count = s.fifo.count) ∧
      (s.wsS = true → t.follower = { s.follower with
        frame := s.fifo.mem.read s.fifo.rdPtr, frameValid := true }) ∧
      (s.wsS = false → t.follower = { s.follower with
        frame := s.fifo.mem.read s.fifo.rdPtr, frameValid := true, fsm := .sl, phase := .waitRise, idx := 15 })

/-- R137 and R138: with a frame held in AWL the follower waits while WS is high and starts the left channel when it is low; it pops no second
frame. -/
def Obligations.HeldFrameWaitsForWsLow : Prop :=
  ∀ s : State, s.Inv → s.input.rst = false → s.input.run = true →
    s.follower.fsm = .awl → s.follower.frameValid = true →
    (s.wsS = true → ∃ x, decodeF s.selF = .ok (.awlWait x)) ∧
    (s.wsS = false → ∃ x, decodeF s.selF = .ok (.awlStart x)) ∧
    ∃ t : State, step s = .next t ∧ t.fifo.rdPtr = s.fifo.rdPtr ∧
      (s.wsS = true → t.follower = s.follower) ∧
      (s.wsS = false → t.follower = { s.follower with fsm := .sl, phase := .waitRise, idx := 15 })

/-- R139 to R143: in ShiftLeft a bit is presented at a rise and `idx` moves on at the fall after it; after bit 0 the follower goes to
AwaitWordSelectHigh. -/
def Obligations.LeftChannelShiftsOnEdges : Prop :=
  ∀ s : State, s.Inv → s.input.rst = false → s.input.run = true → s.follower.fsm = .sl →
    (s.follower.phase = .waitRise → s.rise = false → ∃ x, decodeF s.selF = .ok (.slWaitRise x)) ∧
    (s.follower.phase = .waitRise → s.rise = true → ∃ x, decodeF s.selF = .ok (.slPresent x)) ∧
    (s.follower.phase = .waitFall → s.fall = false → ∃ x, decodeF s.selF = .ok (.slWaitFall x)) ∧
    (s.follower.phase = .waitFall → s.fall = true → s.follower.idx ≠ 0 → ∃ x, decodeF s.selF = .ok (.slNext x)) ∧
    (s.follower.phase = .waitFall → s.fall = true → s.follower.idx = 0 → ∃ x, decodeF s.selF = .ok (.slLast x)) ∧
    ∃ t : State, step s = .next t ∧ t.fifo.rdPtr = s.fifo.rdPtr ∧
      (s.follower.phase = .waitRise → s.rise = false → t.follower = s.follower) ∧
      (s.follower.phase = .waitRise → s.rise = true → t.follower = { s.follower with
        sd := s.follower.frame.getLsbD (16 + s.follower.idx.toNat), phase := .waitFall }) ∧
      (s.follower.phase = .waitFall → s.fall = false → t.follower = s.follower) ∧
      (s.follower.phase = .waitFall → s.fall = true → s.follower.idx ≠ 0 → t.follower = { s.follower with
        idx := s.follower.idx - 1, phase := .waitRise }) ∧
      (s.follower.phase = .waitFall → s.fall = true → s.follower.idx = 0 → t.follower = { s.follower with
        fsm := .awh, phase := .waitRise })

/-- R144 and R145: in AwaitWordSelectHigh the follower waits for WS high, whatever BCLK does, then starts the right channel. -/
def Obligations.RightChannelWaitsForWsHigh : Prop :=
  ∀ s : State, s.Inv → s.input.rst = false → s.input.run = true → s.follower.fsm = .awh →
    (s.wsS = false → ∃ x, decodeF s.selF = .ok (.awhWait x)) ∧
    (s.wsS = true → ∃ x, decodeF s.selF = .ok (.awhStart x)) ∧
    ∃ t : State, step s = .next t ∧ t.fifo.rdPtr = s.fifo.rdPtr ∧
      (s.wsS = false → t.follower = s.follower) ∧
      (s.wsS = true → t.follower = { s.follower with fsm := .sr, phase := .waitRise, idx := 15 })

/-- R146 to R150: in ShiftRight the same over the right sample; after bit 0 the frame is complete. -/
def Obligations.RightChannelShiftsOnEdges : Prop :=
  ∀ s : State, s.Inv → s.input.rst = false → s.input.run = true → s.follower.fsm = .sr →
    (s.follower.phase = .waitRise → s.rise = false → ∃ x, decodeF s.selF = .ok (.srWaitRise x)) ∧
    (s.follower.phase = .waitRise → s.rise = true → ∃ x, decodeF s.selF = .ok (.srPresent x)) ∧
    (s.follower.phase = .waitFall → s.fall = false → ∃ x, decodeF s.selF = .ok (.srWaitFall x)) ∧
    (s.follower.phase = .waitFall → s.fall = true → s.follower.idx ≠ 0 → ∃ x, decodeF s.selF = .ok (.srNext x)) ∧
    (s.follower.phase = .waitFall → s.fall = true → s.follower.idx = 0 → ∃ x, decodeF s.selF = .ok (.srLast x)) ∧
    ∃ t : State, step s = .next t ∧ t.fifo.rdPtr = s.fifo.rdPtr ∧
      (s.follower.phase = .waitRise → s.rise = false → t.follower = s.follower) ∧
      (s.follower.phase = .waitRise → s.rise = true → t.follower = { s.follower with
        sd := s.follower.frame.getLsbD s.follower.idx.toNat, phase := .waitFall }) ∧
      (s.follower.phase = .waitFall → s.fall = false → t.follower = s.follower) ∧
      (s.follower.phase = .waitFall → s.fall = true → s.follower.idx ≠ 0 → t.follower = { s.follower with
        idx := s.follower.idx - 1, phase := .waitRise }) ∧
      (s.follower.phase = .waitFall → s.fall = true → s.follower.idx = 0 → t.follower = { s.follower with
        fsm := .awl, phase := .waitRise, frameValid := false, framesTx := s.follower.framesTx + 1 }) ∧
      (s.follower.phase = .waitFall → s.fall = true → s.follower.idx = 0 → s.pop = false ∧
        (t.starved = true ↔ t.fifo.count = 0))

/-- R171 to R174: what push and pop do to the pointers, the count and the slots, and to the status outputs of the next step; a push and a
pop in one step need `0 < count < C`, so the slot written is not the slot read. -/
def Obligations.PushAndPopUpdateTheRingBuffer : Prop :=
  ∀ s : State, s.Inv → s.input.rst = false →
    decodeP s.selP = (if s.push then (if s.pop then .fifoPushPop else .fifoPush) else if s.pop then .fifoPop else .fifoIdle) ∧
    (s.push = true → s.pop = true → 0 < s.fifo.count ∧ s.fifo.count < s.params.fifoDepth ∧ s.fifo.wrPtr ≠ s.fifo.rdPtr) ∧
    ∃ t : State, step s = .next t ∧
    (s.push = false → t.fifo.mem = s.fifo.mem ∧ t.fifo.wrPtr = s.fifo.wrPtr) ∧
    (s.push = true → t.fifo.mem.read s.fifo.wrPtr = s.word ∧
      (∀ p, p ≠ s.fifo.wrPtr → t.fifo.mem.read p = s.fifo.mem.read p) ∧
      t.fifo.wrPtr = (s.fifo.wrPtr + 1) % s.params.fifoDepth) ∧
    (s.pop = false → t.fifo.rdPtr = s.fifo.rdPtr) ∧
    (s.pop = true → t.fifo.rdPtr = (s.fifo.rdPtr + 1) % s.params.fifoDepth ∧
      t.follower.frame = s.fifo.mem.read s.fifo.rdPtr) ∧
    (s.push = s.pop → t.fifo.count = s.fifo.count) ∧
    (s.push = true → s.pop = false → t.fifo.count = s.fifo.count + 1) ∧
    (s.push = false → s.pop = true → t.fifo.count + 1 = s.fifo.count) ∧
    (s.push = true → t.starved = false ∧ s.sessionDone = false ∧ t.sessionDone = false) ∧
    (s.push = false → s.pop = true → s.assembler.eosSeen = true → s.fifo.count = 1 → t.sessionDone = true)

/-- R192 and R193: once end of stream is seen the byte port is closed; the step that sees it takes no byte, discards the carried bytes,
pushes nothing and leaves the slots of the FIFO alone. -/
def Obligations.EndOfStreamClosesTheBytePort : Prop :=
  ∀ s : State, s.Inv → s.input.rst = false →
    (s.assembler.eosSeen = true → (∃ x, decodeA s.selA = .ok (.aClosed x)) ∧ s.inReady = false ∧ s.push = false ∧
      (s.fifo.count = 0 → s.sessionDone = true) ∧ ∃ t : State, step s = .next t ∧ t.assembler = s.assembler) ∧
    (s.assembler.eosSeen = false → s.input.inEos = true →
      (∃ x, decodeA s.selA = .ok (.aEos x)) ∧ s.inReady = false ∧ s.push = false ∧
      ∃ t : State, step s = .next t ∧ t.assembler = { s.assembler with eosSeen := true, bcnt := 0 } ∧
        t.fifo.mem = s.fifo.mem ∧ (t.sessionDone = true ↔ t.fifo.count = 0))

/-- R194 to R197: with the port open, no byte offered changes nothing; bytes 0 to 2 go into the carry buffer whatever the FIFO holds; the
fourth byte pushes the frame, and waits while the FIFO is full, even in a step that pops. -/
def Obligations.OpenBytePortPacksFrames : Prop :=
  ∀ s : State, s.Inv → s.input.rst = false → s.assembler.eosSeen = false → s.input.inEos = false →
    ∃ t : State, step s = .next t ∧
      (s.input.inValid = false → (∃ x, decodeA s.selA = .ok (.aIdle x)) ∧ t.assembler = s.assembler ∧ s.push = false ∧
        (s.inReady = false ↔ s.assembler.bcnt = 3 ∧ s.fifo.count = s.params.fifoDepth)) ∧
      (s.input.inValid = true → s.assembler.bcnt ≠ 3 →
        (∃ x, decodeA s.selA = .ok (.aAccept x)) ∧ s.accept = true ∧ s.push = false ∧
        t.assembler.bcnt = s.assembler.bcnt + 1 ∧ t.assembler.eosSeen = false ∧
        t.assembler.bytesRx = s.assembler.bytesRx + 1 ∧
        t.assembler.carry.c0 = (if s.assembler.bcnt = 0 then s.input.inByte else s.assembler.carry.c0) ∧
        t.assembler.carry.c1 = (if s.assembler.bcnt = 1 then s.input.inByte else s.assembler.carry.c1) ∧
        t.assembler.carry.c2 = (if s.assembler.bcnt = 2 then s.input.inByte else s.assembler.carry.c2)) ∧
      (s.input.inValid = true → s.assembler.bcnt = 3 → s.fifo.count ≠ s.params.fifoDepth →
        decodeA s.selA = .ok .aComplete ∧ s.accept = true ∧ s.push = true ∧
        (decodeP s.selP = .fifoPush ∨ decodeP s.selP = .fifoPushPop) ∧
        t.assembler = { s.assembler with bcnt := 0, bytesRx := s.assembler.bytesRx + 1 } ∧
        t.fifo.mem.read s.fifo.wrPtr =
          s.assembler.carry.c1 ++ s.assembler.carry.c0 ++ s.input.inByte ++ s.assembler.carry.c2 ∧
        t.fifo.count = (if s.pop then s.fifo.count else s.fifo.count + 1)) ∧
      (s.input.inValid = true → s.assembler.bcnt = 3 → s.fifo.count = s.params.fifoDepth →
        decodeA s.selA = .ok .aStall ∧ s.inReady = false ∧ s.push = false ∧ t.assembler = s.assembler)

/-- The whole step, by selector words, is the block of R130, R170 and R190 written by states and conditions: two designs of one block
(R39, R40, R130, R133 to R150, R170 to R174, R192 to R197). -/
def Obligations.SelectorDrivenStepEqualsTheStateMachine : Prop :=
  ∀ s : State, s.input.rst = false → s.fifo.rdPtr < s.params.fifoDepth → s.fifo.wrPtr < s.params.fifoDepth →
    exec .step s = .next { s with
      follower := Reference.follower s (s.fifo.mem.read s.fifo.rdPtr)
      fifo := Reference.fifo s
      assembler := Reference.assembler s
      sync :=
        { bsync := (s.input.bclk :: s.sync.bsync).take s.sync.bsync.length
          wsync := (s.input.ws :: s.sync.wsync).take s.sync.wsync.length
          bclkPrev := s.bclkS } }

/-! ## Invariants -/

/-- The invariant holds in the reset state, for every parameter R10 and R11 allow and whatever inputs follow. -/
def Obligations.ResetStateMeetsTheInvariant : Prop :=
  ∀ (p : Params) (is : List InputWord), p.wellFormed = true → (freshWith p is).Inv

/-- R56 to R60 (derived in the spec), with the canonical storage and the chains' lengths: every step keeps the invariant, from every state
that has it. -/
def Obligations.EveryStepKeepsTheInvariant : Prop :=
  ∀ s t : State, s.Inv → step s = .next t → t.Inv

/-- The totality half of R210: from every state with the invariant, on every input vector, the step answers a next state. -/
def Obligations.InvariantStatesAlwaysStep : Prop :=
  ∀ s : State, s.Inv → ∃ t : State, step s = .next t

/-- R210: no input vector and no state reachable from reset makes a step fault, trap or stop. -/
def Obligations.NoReachableStateStops : Prop :=
  ∀ (p : Params) (is : List InputWord) (n : Nat), p.wellFormed = true → ∃ t : State, runFor n (freshWith p is) = .next t

/-- The model's choice of notes/assumptions/1.md: no step changes the parameters `C` and `N`. -/
def Obligations.StepsKeepTheParameters : Prop :=
  ∀ s t : State, step s = .next t → t.params = s.params

/-! ## The FIFO -/

/-- R81 and R177 for one step: the ring buffer is a queue. A pop removes the oldest live entry into `frame`, a push appends `word`. -/
def Obligations.RingBufferIsAQueue : Prop :=
  ∀ s : State, s.Inv → s.input.rst = false → ∃ t : State, step s = .next t ∧
    (s.pop = false → t.entries = s.entries ++ s.pushedNow) ∧
    (s.pop = true → ∃ rest, s.entries = t.follower.frame :: rest ∧ t.entries = rest ++ s.pushedNow)

/-- R81: the words popped since reset, followed by the words still queued, are the words pushed since reset, in order. -/
def Obligations.PoppedFramesArePushedFramesInOrder : Prop :=
  ∀ (p : Params) (is : List InputWord) (n : Nat) (t : State), p.wellFormed = true → noReset is = true → n ≤ is.length →
    runFor n (freshWith p is) = .next t →
    record State.pushedNow n (freshWith p is) = record State.poppedNow n (freshWith p is) ++ t.entries

/-- R70: a slot changes only in a step that pushes, and then only the slot `wr_ptr` names; a reset changes none (R178). -/
def Obligations.SlotsAreWrittenOnlyByAPush : Prop :=
  ∀ s t : State, step s = .next t → ∀ p : Nat, ¬(s.push = true ∧ p = s.fifo.wrPtr) →
    t.fifo.mem.read p = s.fifo.mem.read p

/-! ## The byte stream -/

/-- R191: a byte offered in a step with `accept = 0` is not taken: two steps that differ in `in_byte` only answer the same. -/
def Obligations.UnacceptedByteHasNoEffect : Prop :=
  ∀ (s : State) (rst run bclk ws inValid inEos : Bool) (b c : Byte),
    (s.withInput (.pack rst run bclk ws inValid inEos b)).accept = false →
    step (s.withInput (.pack rst run bclk ws inValid inEos b)) = step (s.withInput (.pack rst run bclk ws inValid inEos c))

/-- R198 (derived in the spec), R72 to R74, R78: the words pushed since reset are the frames of the accepted bytes, in order, and the last
`n mod 4` bytes are the ones held in the carry buffer, byte `k` in `carry[k]`, until end of stream discards them. -/
def Obligations.PushedFramesAreTheAcceptedBytes : Prop :=
  ∀ (p : Params) (is : List InputWord) (n : Nat) (t : State), p.wellFormed = true → noReset is = true → n ≤ is.length →
    runFor n (freshWith p is) = .next t →
    record State.pushedNow n (freshWith p is) = framesOf (record State.acceptedNow n (freshWith p is)) ∧
    (t.assembler.eosSeen = false →
      t.assembler.bcnt.toNat = (record State.acceptedNow n (freshWith p is)).length % 4 ∧
      ∀ k, k < t.assembler.bcnt.toNat →
        [t.assembler.carry.c0, t.assembler.carry.c1, t.assembler.carry.c2][k]? =
          (record State.acceptedNow n (freshWith p is))[(record State.acceptedNow n (freshWith p is)).length / 4 * 4 + k]?) ∧
    (t.assembler.eosSeen = true → t.assembler.bcnt = 0)

/-! ## The serial stream -/

/-- R38: `sd` drives its pin, is written only in a present step, holds its value otherwise, and is 0 after reset. -/
def Obligations.SerialDataIsWrittenOnlyWhenPresented : Prop :=
  ∀ s : State, s.Inv → s.outputs.sd = s.follower.sd ∧ ∃ t : State, step s = .next t ∧
    (s.input.rst = false → s.presentStep = true → t.follower.sd = s.presentBit) ∧
    (s.input.rst = false → s.presentStep = false → t.follower.sd = s.follower.sd) ∧
    (s.input.rst = true → t.follower.sd = false)

/-- R36 and R37: `frame` is written only by a pop, with the head; `frame_valid` is 1 from the pop until the frame's last right bit has been
shifted; both are 0 after reset. -/
def Obligations.FrameIsHeldFromItsPopToItsLastBit : Prop :=
  ∀ s : State, s.Inv → ∃ t : State, step s = .next t ∧
    (s.input.rst = false → s.pop = true → t.follower.frame = s.fifo.mem.read s.fifo.rdPtr ∧ t.follower.frameValid = true) ∧
    (s.input.rst = false → s.pop = false → t.follower.frame = s.follower.frame) ∧
    (s.input.rst = false → s.wordEnd = true → s.follower.fsm = .sr → t.follower.frameValid = false) ∧
    (s.input.rst = false → s.pop = false → ¬(s.wordEnd = true ∧ s.follower.fsm = .sr) →
      t.follower.frameValid = s.follower.frameValid) ∧
    (s.input.rst = true → t.follower.frame = 0x00000000 ∧ t.follower.frameValid = false)

/-- R75, R151 and R152 (the last two derived in the spec): the bits presented since reset are the bits of the popped frames, left sample then
right, most significant first, up to the bits of the held frame that are still to come. -/
def Obligations.PresentedBitsAreThePoppedFramesBits : Prop :=
  ∀ (p : Params) (is : List InputWord) (n : Nat) (t : State), p.wellFormed = true → noReset is = true → n ≤ is.length →
    runFor n (freshWith p is) = .next t →
    t.bitsLeft ≤ 32 ∧
    record State.presentedNow n (freshWith p is) =
      ((record State.poppedNow n (freshWith p is)).flatMap serialBits).take
        (32 * (record State.poppedNow n (freshWith p is)).length - t.bitsLeft)

/-- The block end to end (R72 to R75, R81, R151, R198): the bits on the wire begin the bits of the frames of the accepted bytes. -/
def Obligations.BytesReachTheWireInOrder : Prop :=
  ∀ (p : Params) (is : List InputWord) (n : Nat), p.wellFormed = true → noReset is = true → n ≤ is.length →
    record State.presentedNow n (freshWith p is) <+:
      (framesOf (record State.acceptedNow n (freshWith p is))).flatMap serialBits

/-- R41 and R48: `frames_tx` counts the right-word ends and `bytes_rx` the accepted bytes, modulo 2^32; nothing else in a session changes
them, reset clears them, and they are driven on their output ports. -/
def Obligations.CountersCountFramesAndBytes : Prop :=
  ∀ s : State, s.Inv → s.outputs.framesTx = s.follower.framesTx ∧ s.outputs.bytesRx = s.assembler.bytesRx ∧
    ∃ t : State, step s = .next t ∧
    (s.input.rst = false → s.wordEnd = true → s.follower.fsm = .sr → t.follower.framesTx = s.follower.framesTx + 1) ∧
    (s.input.rst = false → ¬(s.wordEnd = true ∧ s.follower.fsm = .sr) → t.follower.framesTx = s.follower.framesTx) ∧
    (s.input.rst = false → s.accept = true → t.assembler.bytesRx = s.assembler.bytesRx + 1) ∧
    (s.input.rst = false → s.accept = false → t.assembler.bytesRx = s.assembler.bytesRx) ∧
    (s.input.rst = true → t.follower.framesTx = 0 ∧ t.assembler.bytesRx = 0)

/-- R61 (derived in the spec): the number of frames popped since reset is `frames_tx` plus `frame_valid`, modulo 2^32. -/
def Obligations.PoppedFramesAreSentOrHeld : Prop :=
  ∀ (p : Params) (is : List InputWord) (n : Nat) (t : State), p.wellFormed = true → noReset is = true → n ≤ is.length →
    runFor n (freshWith p is) = .next t →
    BitVec.ofNat 32 (record State.poppedNow n (freshWith p is)).length =
      t.follower.framesTx + (if t.follower.frameValid then 1 else 0)

/-! ## The pins -/

/-- R39 and R40: in a step with `rst = 0` the chains shift and `bclk_prev` takes the sample, whatever `run` is; reset clears every
stage. -/
def Obligations.SynchroniserShiftsEveryStep : Prop :=
  ∀ s : State, s.Inv → ∃ t : State, step s = .next t ∧
    t.sync.bsync.length = s.params.syncStages ∧ t.sync.wsync.length = s.params.syncStages ∧
    (s.input.rst = false → t.sync.bclkPrev = s.bclkS ∧
      t.sync.bsync[0]? = some s.input.bclk ∧ t.sync.wsync[0]? = some s.input.ws ∧
      (∀ k, k + 1 < s.params.syncStages →
        t.sync.bsync[k + 1]? = s.sync.bsync[k]? ∧ t.sync.wsync[k + 1]? = s.sync.wsync[k]?)) ∧
    (s.input.rst = true → t.sync.bclkPrev = false ∧
      (∀ k, k < s.params.syncStages → t.sync.bsync[k]? = some false ∧ t.sync.wsync[k]? = some false))

/-- R242 and R260 (derived in the spec): for the first `N` steps after reset the logic sees the reset zeros, and from then on it sees each pin level
`N` steps after the pin had it. -/
def Obligations.PinReachesTheLogicAfterNSteps : Prop :=
  ∀ (p : Params) (is : List InputWord) (n : Nat) (t : State), p.wellFormed = true → noReset is = true → n ≤ is.length →
    runFor n (freshWith p is) = .next t →
    (n < p.syncStages → t.bclkS = false ∧ t.wsS = false) ∧
    (∀ i, p.syncStages ≤ n → is[n - p.syncStages]? = some i → t.bclkS = i.bclk ∧ t.wsS = i.ws)

/-! ## Control -/

/-- R241 (derived in the spec): the outputs of the step after a reset step. -/
def Obligations.OutputsAfterAReset : Prop :=
  ∀ s : State, s.input.rst = true → ∃ t : State, step s = .next t ∧
    t.outputs.sd = false ∧ t.outputs.framesTx = 0 ∧ t.outputs.bytesRx = 0 ∧ t.outputs.fifoLevel = 0 ∧
    t.outputs.starved = true ∧ t.outputs.sessionDone = false ∧
    (t.input.rst = false → t.input.inEos = false → t.outputs.inReady = true)

/-- R47: `eos_seen` is set by the first `in_eos` and cleared only by reset, and while it is 1 the byte port is closed. -/
def Obligations.EndOfStreamIsSticky : Prop :=
  ∀ s : State, s.Inv → (s.assembler.eosSeen = true → s.outputs.inReady = false) ∧ ∃ t : State, step s = .next t ∧
    (s.input.rst = false → (t.assembler.eosSeen = true ↔ s.assembler.eosSeen = true ∨ s.input.inEos = true)) ∧
    (s.input.rst = true → t.assembler.eosSeen = false)

/-- R226 (derived in the spec): once transmission is complete it stays so until a reset, and `sd` holds the last bit. -/
def Obligations.CompletedTransmissionStaysComplete : Prop :=
  ∀ s : State, s.Inv → s.input.rst = false → s.txComplete = true →
    ∃ t : State, step s = .next t ∧ t.txComplete = true ∧ t.follower = s.follower ∧ t.fifo = s.fifo

/-- R213 and R221: the follower and the assembler are coupled by the FIFO alone. The follower's next registers do not depend on the byte port
or on the assembler, and the assembler's do not depend on the follower, the pins, `run`, or anything of the FIFO but its count. -/
def Obligations.OnlyTheFifoCouplesTheSubBlocks : Prop :=
  ∀ s s' : State, s.Inv → s'.Inv → s.params = s'.params → s.input.rst = false → s'.input.rst = false →
    ∃ t t' : State, step s = .next t ∧ step s' = .next t' ∧
      (s.follower = s'.follower → s.sync = s'.sync → s.fifo = s'.fifo → s.input.run = s'.input.run →
        t.follower = t'.follower) ∧
      (s.assembler = s'.assembler → s.fifo.count = s'.fifo.count → s.input.inValid = s'.input.inValid →
        s.input.inEos = s'.input.inEos → s.input.inByte = s'.input.inByte → t.assembler = t'.assembler)

/-- R155 (derived in the spec): WS and the FIFO are ignored in the shift states, and BCLK is ignored in the waiting states. -/
def Obligations.FollowerReadsOnlyWhatItsStateWaitsFor : Prop :=
  ∀ s s' : State, s.Inv → s'.Inv → s.input.rst = false → s'.input.rst = false →
    s.follower = s'.follower → s.input.run = s'.input.run →
    ∃ t t' : State, step s = .next t ∧ step s' = .next t' ∧
      (s.shifting = true → s.bclkS = s'.bclkS → s.sync.bclkPrev = s'.sync.bclkPrev → t.follower = t'.follower) ∧
      (s.shifting = false → s.wsS = s'.wsS → s.fifo = s'.fifo → t.follower = t'.follower)

/-- R251 (derived in the spec): in the step after a word end the follower waits for WS, so nothing is presented there; a rise seen there is
lost, for in the step after it there is no rise (R51: an edge is not remembered) and nothing is presented either. -/
def Obligations.RiseRightAfterAWordEndIsLost : Prop :=
  ∀ s : State, s.Inv → s.wordEnd = true → ∃ t : State, step s = .next t ∧
    t.shifting = false ∧ t.presentStep = false ∧
    ∃ u : State, step t = .next u ∧ (t.input.rst = false → u.follower.sd = s.follower.sd) ∧
      (t.rise = true → t.input.rst = false → u.rise = false ∧ u.presentStep = false)

/-- R252 and R260 (derived in the spec): with WS at the next channel's level in the step after a left word end, the right channel waits for its first
rise two steps after the word end. -/
def Obligations.RightChannelIsReadyTwoStepsAfterTheLeft : Prop :=
  ∀ s : State, s.Inv → s.wordEnd = true → s.follower.fsm = .sl → ∃ t : State, step s = .next t ∧
    (t.input.rst = false → t.input.run = true → t.wsS = true →
      ∃ u : State, step t = .next u ∧ u.follower = { s.follower with fsm := .sr, phase := .waitRise, idx := 15 })

/-- R252, R253 and R260 (derived in the spec): with WS low and a frame waiting in the step after a right word end, the next left channel waits for its
first rise two steps after the word end, on the oldest frame of that step: a frame pushed in the word-end step itself is in time. -/
def Obligations.LeftChannelIsReadyTwoStepsAfterTheRight : Prop :=
  ∀ s : State, s.Inv → s.wordEnd = true → s.follower.fsm = .sr → ∃ t : State, step s = .next t ∧
    (t.input.rst = false → t.input.run = true → t.wsS = false → t.fifo.count ≠ 0 →
      ∃ u : State, step t = .next u ∧ u.follower.fsm = .sl ∧ u.follower.phase = .waitRise ∧ u.follower.idx = 15 ∧
        u.follower.frameValid = true ∧ u.follower.frame = t.fifo.mem.read t.fifo.rdPtr)
end

