-- ==== Sys2Proof/Laws/Inputs.lean ====
section
/-! SUPPORT. The fields of an input vector packed from its seven inputs (spec/30_encoding.md R114). -/

namespace Sys2Proof.InputWord

theorem pack_getLsbD (a b c d e f : Bool) (w : Byte) (k : Nat) :
    (pack a b c d e f w).getLsbD k = if k < 8 then w.getLsbD k else ([f, e, d, c, b, a][k - 8]?).getD false := by
  show BitVec.getLsbD (w := 1 + 1 + 1 + 1 + 1 + 1 + 8) (BitVec.ofBool a ++ BitVec.ofBool b ++ BitVec.ofBool c ++
    BitVec.ofBool d ++ BitVec.ofBool e ++ BitVec.ofBool f ++ w) k = _
  simp only [BitVec.getLsbD_append]
  by_cases hk : k < 8
  · simp [hk]
  · obtain ⟨j, rfl⟩ : ∃ j, k = 8 + j := ⟨k - 8, by omega⟩
    match j with
    | 0 | 1 | 2 | 3 | 4 | 5 => simp
    | j + 6 => simp

@[simp] theorem pack_rst (a b c d e f : Bool) (w : Byte) : (pack a b c d e f w).rst = a := pack_getLsbD ..
@[simp] theorem pack_run (a b c d e f : Bool) (w : Byte) : (pack a b c d e f w).run = b := pack_getLsbD ..
@[simp] theorem pack_bclk (a b c d e f : Bool) (w : Byte) : (pack a b c d e f w).bclk = c := pack_getLsbD ..
@[simp] theorem pack_ws (a b c d e f : Bool) (w : Byte) : (pack a b c d e f w).ws = d := pack_getLsbD ..
@[simp] theorem pack_inValid (a b c d e f : Bool) (w : Byte) : (pack a b c d e f w).inValid = e := pack_getLsbD ..
@[simp] theorem pack_inEos (a b c d e f : Bool) (w : Byte) : (pack a b c d e f w).inEos = f := pack_getLsbD ..
@[simp] theorem pack_inByte (a b c d e f : Bool) (w : Byte) : (pack a b c d e f w).inByte = w := by
  apply BitVec.eq_of_getLsbD_eq
  intro i hi
  rw [inByte, BitVec.getLsbD_extractLsb', pack_getLsbD]
  simp [hi]

end Sys2Proof.InputWord
end

