-- ==== Sys2Proof/Laws/Memory.lean ====
section
/-! SUPPORT. The FIFO storage: a read after a write, the other slots, the written slots, and the canonical form. -/

namespace Sys2Proof.Machine.Memory

@[simp] theorem read_write_same (m : Memory) (p : Nat) (v : FrameWord) : (m.write p v).read p = v := by
  induction m with
  | nil => simp [write, read]
  | cons e m ih =>
    obtain ⟨q, u⟩ := e
    by_cases h1 : p < q
    · simp [write, read, h1]
    · by_cases h2 : p = q
      · simp [write, read, h2]
      · simp [write, read, h1, h2, Ne.symm h2, ih]

theorem read_write_other (m : Memory) {p r : Nat} (v : FrameWord) (h : r ≠ p) : (m.write p v).read r = m.read r := by
  induction m with
  | nil => simp [write, read, Ne.symm h]
  | cons e m ih =>
    obtain ⟨q, u⟩ := e
    by_cases h1 : p < q
    · simp [write, read, h1, Ne.symm h]
    · by_cases h2 : p = q
      · subst h2; simp [write, read, Ne.symm h]
      · simp [write, read, h1, h2, ih]

@[simp] theorem written_write (m : Memory) (p r : Nat) (v : FrameWord) :
    (m.write p v).written r = (p == r || m.written r) := by
  induction m with
  | nil => simp [write, written]
  | cons e m ih =>
    obtain ⟨q, u⟩ := e
    by_cases h1 : p < q
    · simp [write, written, h1]
    · by_cases h2 : p = q
      · subst h2; by_cases h3 : p = r <;> simp [write, written, h3]
      · simp [write, written, h1, h2, ih, Bool.or_left_comm]

/-- A canonical storage is canonical from any lower slot on. -/
theorem wfFrom_mono {lo lo' c : Nat} (m : Memory) (h : wfFrom lo c m = true) (hle : lo' ≤ lo) : wfFrom lo' c m = true := by
  cases m with
  | nil => rfl
  | cons e m =>
    simp only [wfFrom, Bool.and_eq_true, decide_eq_true_eq] at h ⊢
    exact ⟨⟨le_trans hle h.1.1, h.1.2⟩, h.2⟩

theorem wfFrom_write {lo c : Nat} (m : Memory) {p : Nat} (v : FrameWord) (h : wfFrom lo c m = true)
    (hlo : lo ≤ p) (hp : p < c) : wfFrom lo c (m.write p v) = true := by
  induction m generalizing lo with
  | nil => simp [write, wfFrom, hlo, hp]
  | cons e m ih =>
    obtain ⟨q, u⟩ := e
    simp only [wfFrom, Bool.and_eq_true, decide_eq_true_eq] at h
    by_cases h1 : p < q
    · simp [write, wfFrom, h1, hlo, hp, h.1.2, h.2]
    · by_cases h2 : p = q
      · subst h2; simp [write, wfFrom, hlo, hp, h.2]
      · have hqp : q + 1 ≤ p := by omega
        simp [write, wfFrom, h1, h2, h.1.1, h.1.2, ih h.2 hqp]

/-- A write to a slot of the FIFO keeps the canonical form. -/
theorem wf_write {c : Nat} (m : Memory) {p : Nat} (v : FrameWord) (h : m.wf c = true) (hp : p < c) :
    (m.write p v).wf c = true := wfFrom_write m v h (Nat.zero_le p) hp

/-- Reset memory is canonical: nothing is listed. -/
@[simp] theorem wf_nil (c : Nat) : Memory.wf c [] = true := rfl

end Sys2Proof.Machine.Memory

namespace Sys2Proof.Machine.State

/-- `MemRead` (R17) on a slot of the FIFO. -/
theorem memRead_of_lt {s : State} {p : Nat} (h : p < s.params.fifoDepth) : s.memRead p = some (s.fifo.mem.read p) := by
  simp [memRead, h]

/-- `MemWrite` (R17) on a slot of the FIFO. -/
theorem memWrite_of_lt {s : State} {p : Nat} (v : FrameWord) (h : p < s.params.fifoDepth) :
    s.memWrite p v = some (s.fifo.mem.write p v) := by simp [memWrite, h]

/-- The written storage is canonical where the storage was. -/
theorem memWrite_wf {s : State} {p : Nat} {v : FrameWord} {m : Memory} (hwf : s.fifo.mem.wf s.params.fifoDepth = true)
    (h : s.memWrite p v = some m) : m.wf s.params.fifoDepth = true := by
  unfold memWrite at h
  split at h
  · next hp => obtain rfl := Option.some.inj h; exact Memory.wf_write _ _ hwf hp
  · cases h

/-- The reset state's storage is canonical. -/
theorem reset_mem_wf : State.reset.fifo.mem.wf State.reset.params.fifoDepth = true := rfl

end Sys2Proof.Machine.State
end

