-- ==== Sys2Proof/Laws/State.lean ====
section
/-! SUPPORT. One lemma per field per update of the state, so that no proof unfolds a record update. -/

namespace Sys2Proof.Machine

namespace State

@[simp] theorem setFollower_params (s : State) (f : Follower) : (s.setFollower f).params = s.params := rfl
@[simp] theorem setFollower_follower (s : State) (f : Follower) : (s.setFollower f).follower = f := rfl
@[simp] theorem setFollower_sync (s : State) (f : Follower) : (s.setFollower f).sync = s.sync := rfl
@[simp] theorem setFollower_fifo (s : State) (f : Follower) : (s.setFollower f).fifo = s.fifo := rfl
@[simp] theorem setFollower_assembler (s : State) (f : Follower) : (s.setFollower f).assembler = s.assembler := rfl
@[simp] theorem setFollower_stimulus (s : State) (f : Follower) : (s.setFollower f).stimulus = s.stimulus := rfl
@[simp] theorem setFollower_draws (s : State) (f : Follower) : (s.setFollower f).draws = s.draws := rfl
@[simp] theorem setFollower_input (s : State) (f : Follower) : (s.setFollower f).input = s.input := rfl

@[simp] theorem setFifo_params (s : State) (q : Fifo) : (s.setFifo q).params = s.params := rfl
@[simp] theorem setFifo_follower (s : State) (q : Fifo) : (s.setFifo q).follower = s.follower := rfl
@[simp] theorem setFifo_sync (s : State) (q : Fifo) : (s.setFifo q).sync = s.sync := rfl
@[simp] theorem setFifo_fifo (s : State) (q : Fifo) : (s.setFifo q).fifo = q := rfl
@[simp] theorem setFifo_assembler (s : State) (q : Fifo) : (s.setFifo q).assembler = s.assembler := rfl
@[simp] theorem setFifo_stimulus (s : State) (q : Fifo) : (s.setFifo q).stimulus = s.stimulus := rfl
@[simp] theorem setFifo_draws (s : State) (q : Fifo) : (s.setFifo q).draws = s.draws := rfl
@[simp] theorem setFifo_input (s : State) (q : Fifo) : (s.setFifo q).input = s.input := rfl

@[simp] theorem setAssembler_params (s : State) (a : Assembler) : (s.setAssembler a).params = s.params := rfl
@[simp] theorem setAssembler_follower (s : State) (a : Assembler) : (s.setAssembler a).follower = s.follower := rfl
@[simp] theorem setAssembler_sync (s : State) (a : Assembler) : (s.setAssembler a).sync = s.sync := rfl
@[simp] theorem setAssembler_fifo (s : State) (a : Assembler) : (s.setAssembler a).fifo = s.fifo := rfl
@[simp] theorem setAssembler_assembler (s : State) (a : Assembler) : (s.setAssembler a).assembler = a := rfl
@[simp] theorem setAssembler_stimulus (s : State) (a : Assembler) : (s.setAssembler a).stimulus = s.stimulus := rfl
@[simp] theorem setAssembler_draws (s : State) (a : Assembler) : (s.setAssembler a).draws = s.draws := rfl
@[simp] theorem setAssembler_input (s : State) (a : Assembler) : (s.setAssembler a).input = s.input := rfl

/-! `consume` changes the model's own input fields only. -/

@[simp] theorem consume_params (s : State) : s.consume.params = s.params := by unfold consume; split <;> rfl
@[simp] theorem consume_follower (s : State) : s.consume.follower = s.follower := by unfold consume; split <;> rfl
@[simp] theorem consume_sync (s : State) : s.consume.sync = s.sync := by unfold consume; split <;> rfl
@[simp] theorem consume_fifo (s : State) : s.consume.fifo = s.fifo := by unfold consume; split <;> rfl
@[simp] theorem consume_assembler (s : State) : s.consume.assembler = s.assembler := by unfold consume; split <;> rfl
@[simp] theorem consume_stimulus (s : State) : s.consume.stimulus = s.stimulus.tail := by
  unfold consume; split <;> simp [*]

/-! `withInput` changes the listed inputs only. -/

@[simp] theorem withInput_params (s : State) (i : InputWord) : (s.withInput i).params = s.params := rfl
@[simp] theorem withInput_follower (s : State) (i : InputWord) : (s.withInput i).follower = s.follower := rfl
@[simp] theorem withInput_sync (s : State) (i : InputWord) : (s.withInput i).sync = s.sync := rfl
@[simp] theorem withInput_fifo (s : State) (i : InputWord) : (s.withInput i).fifo = s.fifo := rfl
@[simp] theorem withInput_assembler (s : State) (i : InputWord) : (s.withInput i).assembler = s.assembler := rfl
@[simp] theorem withInput_draws (s : State) (i : InputWord) : (s.withInput i).draws = s.draws := rfl
@[simp] theorem withInput_input (s : State) (i : InputWord) : (s.withInput i).input = i := rfl
@[simp] theorem withInput_consume (s : State) (i : InputWord) :
    (s.withInput i).consume = { s with stimulus := s.stimulus.tail } := rfl

theorem input_of_stimulus {s : State} {i : InputWord} {rest : List InputWord} (h : s.stimulus = i :: rest) :
    s.input = i := by simp [input, h]

end State

/-! The shared follower writes. -/

namespace Follower

@[simp] theorem load_fsm (f : Follower) (w : FrameWord) : (f.load w).fsm = f.fsm := rfl
@[simp] theorem load_phase (f : Follower) (w : FrameWord) : (f.load w).phase = f.phase := rfl
@[simp] theorem load_idx (f : Follower) (w : FrameWord) : (f.load w).idx = f.idx := rfl
@[simp] theorem load_frame (f : Follower) (w : FrameWord) : (f.load w).frame = w := rfl
@[simp] theorem load_frameValid (f : Follower) (w : FrameWord) : (f.load w).frameValid = true := rfl
@[simp] theorem load_sd (f : Follower) (w : FrameWord) : (f.load w).sd = f.sd := rfl
@[simp] theorem load_framesTx (f : Follower) (w : FrameWord) : (f.load w).framesTx = f.framesTx := rfl

@[simp] theorem startChannel_fsm (f : Follower) (st : Fsm) : (f.startChannel st).fsm = st := rfl
@[simp] theorem startChannel_phase (f : Follower) (st : Fsm) : (f.startChannel st).phase = .waitRise := rfl
@[simp] theorem startChannel_idx (f : Follower) (st : Fsm) : (f.startChannel st).idx = 15 := rfl
@[simp] theorem startChannel_frame (f : Follower) (st : Fsm) : (f.startChannel st).frame = f.frame := rfl
@[simp] theorem startChannel_frameValid (f : Follower) (st : Fsm) : (f.startChannel st).frameValid = f.frameValid := rfl
@[simp] theorem startChannel_sd (f : Follower) (st : Fsm) : (f.startChannel st).sd = f.sd := rfl
@[simp] theorem startChannel_framesTx (f : Follower) (st : Fsm) : (f.startChannel st).framesTx = f.framesTx := rfl

@[simp] theorem present_fsm (f : Follower) (b : Bool) : (f.present b).fsm = f.fsm := rfl
@[simp] theorem present_phase (f : Follower) (b : Bool) : (f.present b).phase = .waitFall := rfl
@[simp] theorem present_idx (f : Follower) (b : Bool) : (f.present b).idx = f.idx := rfl
@[simp] theorem present_frame (f : Follower) (b : Bool) : (f.present b).frame = f.frame := rfl
@[simp] theorem present_frameValid (f : Follower) (b : Bool) : (f.present b).frameValid = f.frameValid := rfl
@[simp] theorem present_sd (f : Follower) (b : Bool) : (f.present b).sd = b := rfl
@[simp] theorem present_framesTx (f : Follower) (b : Bool) : (f.present b).framesTx = f.framesTx := rfl

@[simp] theorem nextBit_fsm (f : Follower) : f.nextBit.fsm = f.fsm := rfl
@[simp] theorem nextBit_phase (f : Follower) : f.nextBit.phase = .waitRise := rfl
@[simp] theorem nextBit_idx (f : Follower) : f.nextBit.idx = f.idx - 1 := rfl
@[simp] theorem nextBit_frame (f : Follower) : f.nextBit.frame = f.frame := rfl
@[simp] theorem nextBit_frameValid (f : Follower) : f.nextBit.frameValid = f.frameValid := rfl
@[simp] theorem nextBit_sd (f : Follower) : f.nextBit.sd = f.sd := rfl
@[simp] theorem nextBit_framesTx (f : Follower) : f.nextBit.framesTx = f.framesTx := rfl

@[simp] theorem leaveWord_fsm (f : Follower) (st : Fsm) : (f.leaveWord st).fsm = st := rfl
@[simp] theorem leaveWord_phase (f : Follower) (st : Fsm) : (f.leaveWord st).phase = .waitRise := rfl
@[simp] theorem leaveWord_idx (f : Follower) (st : Fsm) : (f.leaveWord st).idx = f.idx := rfl
@[simp] theorem leaveWord_frame (f : Follower) (st : Fsm) : (f.leaveWord st).frame = f.frame := rfl
@[simp] theorem leaveWord_frameValid (f : Follower) (st : Fsm) : (f.leaveWord st).frameValid = f.frameValid := rfl
@[simp] theorem leaveWord_sd (f : Follower) (st : Fsm) : (f.leaveWord st).sd = f.sd := rfl
@[simp] theorem leaveWord_framesTx (f : Follower) (st : Fsm) : (f.leaveWord st).framesTx = f.framesTx := rfl

@[simp] theorem frameDone_fsm (f : Follower) : f.frameDone.fsm = f.fsm := rfl
@[simp] theorem frameDone_phase (f : Follower) : f.frameDone.phase = f.phase := rfl
@[simp] theorem frameDone_idx (f : Follower) : f.frameDone.idx = f.idx := rfl
@[simp] theorem frameDone_frame (f : Follower) : f.frameDone.frame = f.frame := rfl
@[simp] theorem frameDone_frameValid (f : Follower) : f.frameDone.frameValid = false := rfl
@[simp] theorem frameDone_sd (f : Follower) : f.frameDone.sd = f.sd := rfl
@[simp] theorem frameDone_framesTx (f : Follower) : f.frameDone.framesTx = f.framesTx + 1 := rfl

end Follower

@[simp] theorem Assembler.countByte_carry (a : Assembler) : a.countByte.carry = a.carry := rfl
@[simp] theorem Assembler.countByte_bcnt (a : Assembler) : a.countByte.bcnt = a.bcnt := rfl
@[simp] theorem Assembler.countByte_eosSeen (a : Assembler) : a.countByte.eosSeen = a.eosSeen := rfl
@[simp] theorem Assembler.countByte_bytesRx (a : Assembler) : a.countByte.bytesRx = a.bytesRx + 1 := rfl

/-! The reset values (R240). -/

@[simp] theorem State.resetWith_params (p : Params) : (State.resetWith p).params = p := rfl
@[simp] theorem State.resetWith_follower (p : Params) : (State.resetWith p).follower = Follower.reset := rfl
@[simp] theorem State.resetWith_sync (p : Params) : (State.resetWith p).sync = Sync.reset p := rfl
@[simp] theorem State.resetWith_fifo (p : Params) : (State.resetWith p).fifo = Fifo.resetKeeping [] := rfl
@[simp] theorem State.resetWith_assembler (p : Params) : (State.resetWith p).assembler = Assembler.reset := rfl

end Sys2Proof.Machine
end

