-- ==== Sys2Proof/Laws/Ops.lean ====
section
/-! SUPPORT. What each shared operation can do: one lemma per operation, cited instead of unfolding it. -/

namespace Sys2Proof.Machine

/-- Loading the head completes exactly where `rd_ptr` names a slot, and writes follower registers only. -/
theorem withHead_eq_next {s t : State} {use : FrameWord → Follower} (h : withHead s use = .next t) :
    s.fifo.rdPtr < s.params.fifoDepth ∧ t = s.setFollower (use (s.fifo.mem.read s.fifo.rdPtr)) := by
  unfold withHead State.head State.memRead at h
  by_cases hp : s.fifo.rdPtr < s.params.fifoDepth
  · simp only [hp, if_true] at h
    exact ⟨hp, by simpa using h.symm⟩
  · simp [hp] at h

theorem withHead_of_lt {s : State} (use : FrameWord → Follower) (hp : s.fifo.rdPtr < s.params.fifoDepth) :
    withHead s use = .next (s.setFollower (use (s.fifo.mem.read s.fifo.rdPtr))) := by
  simp [withHead, State.head, State.memRead, hp]

theorem withHead_of_not_lt {s : State} (use : FrameWord → Follower) (hp : ¬ s.fifo.rdPtr < s.params.fifoDepth) :
    withHead s use = .fault .noSuchSlot := by
  simp [withHead, State.head, State.memRead, hp]

/-- Appending a word completes exactly where `wr_ptr` names a slot, and writes FIFO registers only. -/
theorem withPushed_eq_next {s t : State} {use : Memory → Fifo} (h : withPushed s use = .next t) :
    s.fifo.wrPtr < s.params.fifoDepth ∧ t = s.setFifo (use (s.fifo.mem.write s.fifo.wrPtr s.word)) := by
  unfold withPushed State.memWrite at h
  by_cases hp : s.fifo.wrPtr < s.params.fifoDepth
  · simp only [hp, if_true] at h
    exact ⟨hp, by simpa using h.symm⟩
  · simp [hp] at h

theorem withPushed_of_lt {s : State} (use : Memory → Fifo) (hp : s.fifo.wrPtr < s.params.fifoDepth) :
    withPushed s use = .next (s.setFifo (use (s.fifo.mem.write s.fifo.wrPtr s.word))) := by
  simp [withPushed, State.memWrite, hp]

theorem withPushed_of_not_lt {s : State} (use : Memory → Fifo) (hp : ¬ s.fifo.wrPtr < s.params.fifoDepth) :
    withPushed s use = .fault .noSuchSlot := by
  simp [withPushed, State.memWrite, hp]

/-- The composition completes exactly where its three operations do, and then each register comes from its writer (R111). -/
theorem State.merge_eq_next {s t : State} {rf rq ra : Result} (h : s.merge rf rq ra = .next t) :
    ∃ tf tq ta, rf = .next tf ∧ rq = .next tq ∧ ra = .next ta ∧
      t = { s with follower := tf.follower, fifo := tq.fifo, assembler := ta.assembler, sync := s.syncNext } := by
  cases rf <;> cases rq <;> cases ra <;> simp only [State.merge, reduceCtorEq] at h
  exact ⟨_, _, _, rfl, rfl, rfl, by simpa using h.symm⟩

@[simp] theorem State.merge_next (s tf tq ta : State) :
    s.merge (.next tf) (.next tq) (.next ta) =
      .next { s with follower := tf.follower, fifo := tq.fifo, assembler := ta.assembler, sync := s.syncNext } := rfl

/-- A synchroniser chain keeps its length. -/
@[simp] theorem shiftChain_length (pin : Bool) (chain : List Bool) : (shiftChain pin chain).length = chain.length := by
  simp [shiftChain]

/-- Stage 0 takes the pin and stage `k` takes stage `k - 1` (R39). -/
theorem shiftChain_getElem? (pin : Bool) (chain : List Bool) (k : Nat) (hk : k < chain.length) :
    (shiftChain pin chain)[k]? = (pin :: chain)[k]? := by
  simp [shiftChain, hk]

/-! Which of a step's operations a selector word can choose. -/

/-- Every assembler selector value selects an operation (R108). -/
theorem decodeA_ok (a : BitVec 5) : ∃ i, decodeA a = .ok i := by
  have h : ∀ a : BitVec 5, (decodeA a).isOk = true := by decide
  have := h a
  cases hd : decodeA a with
  | ok i => exact ⟨i, rfl⟩
  | error e => simp [hd, Except.isOk, Except.toBool] at this

/-- A step is RESET or STEP, by `rst` (R101), with the input vector consumed after it (R113). -/
theorem fetch_of_rst {s : State} (h : s.input.rst = true) : s.fetch = .reset := by
  simp [State.fetch, State.selG, h, decodeG]

theorem fetch_of_not_rst {s : State} (h : s.input.rst = false) : s.fetch = .step := by
  simp [State.fetch, State.selG, h, decodeG]

@[simp] theorem consumed_next (t : State) : consumed (.next t) = .next t.consume := rfl
@[simp] theorem consumed_fault (r : Fault) : consumed (.fault r) = .fault r := rfl
@[simp] theorem consumed_refused (r : Refusal) : consumed (.refused r) = .refused r := rfl

theorem consumed_eq_next {r : Result} {t : State} (h : consumed r = .next t) : ∃ u, r = .next u ∧ t = u.consume := by
  cases r with
  | next u => exact ⟨u, rfl, by simpa using h.symm⟩
  | fault e => cases h
  | refused e => cases h

theorem step_of_rst {s : State} (h : s.input.rst = true) :
    step s = .next { s with
      follower := Follower.reset, sync := Sync.reset s.params,
      fifo := Fifo.resetKeeping s.fifo.mem, assembler := Assembler.reset }.consume := by
  simp [step, fetch_of_rst h, exec, execReset]

theorem step_of_not_rst {s : State} (h : s.input.rst = false) : step s = consumed (execStep s) := by
  simp [step, fetch_of_not_rst h, exec]

/-- STEP completes exactly where the selected operations do, and is their composition. -/
theorem execStep_eq_next {s t : State} (h : execStep s = .next t) :
    ∃ f a tf tq ta, decodeF s.selF = .ok f ∧ decodeA s.selA = .ok a ∧ performFollower f s = .next tf ∧
      performFifo (decodeP s.selP) s = .next tq ∧ performAssembler a s = .next ta ∧
      t = { s with follower := tf.follower, fifo := tq.fifo, assembler := ta.assembler, sync := s.syncNext } := by
  unfold execStep at h
  split at h
  · next f a hf ha =>
    obtain ⟨tf, tq, ta, h1, h2, h3, ht⟩ := State.merge_eq_next h
    exact ⟨f, a, tf, tq, ta, hf, ha, h1, h2, h3, ht⟩
  · cases h

/-- The inversion of one step with `rst = 0`: the selected operations all completed, and the next state is their composition. -/
theorem step_eq_next_of_not_rst {s t : State} (h : s.input.rst = false) (ht : step s = .next t) :
    ∃ f a tf tq ta, decodeF s.selF = .ok f ∧ decodeA s.selA = .ok a ∧ performFollower f s = .next tf ∧
      performFifo (decodeP s.selP) s = .next tq ∧ performAssembler a s = .next ta ∧
      t = ({ s with follower := tf.follower, fifo := tq.fifo, assembler := ta.assembler, sync := s.syncNext } : State).consume := by
  rw [step_of_not_rst h] at ht
  obtain ⟨u, hu, rfl⟩ := consumed_eq_next ht
  obtain ⟨f, a, tf, tq, ta, hf, ha, h1, h2, h3, rfl⟩ := execStep_eq_next hu
  exact ⟨f, a, tf, tq, ta, hf, ha, h1, h2, h3, rfl⟩

end Sys2Proof.Machine
end

