-- ==== Sys2Proof/Laws/PerInstr.lean ====
section
/-! SUPPORT. The per-instruction family EncodesOwnRow: the selector word an instruction encodes to meets its row of the opcode table
(spec/30_encoding.md R101, R104, R108, R109). -/

namespace Sys2Proof.Laws.EncodesOwnRow

/-- The selector word of `i` meets the mask and match of its row. -/
def Statement (i : Instr) : Prop := i.word &&& i.rowMask = i.rowMatch

theorem reset : Statement .reset := by unfold Statement; decide
theorem step : Statement .step := by unfold Statement; decide
theorem fHold (x : BitVec 9) : Statement (.fHold x) := by revert x; unfold Statement; decide +kernel
theorem awlStarve (x : BitVec 5) : Statement (.awlStarve x) := by revert x; unfold Statement; decide
theorem awlPop (x : BitVec 4) : Statement (.awlPop x) := by revert x; unfold Statement; decide
theorem awlPopStart (x : BitVec 4) : Statement (.awlPopStart x) := by revert x; unfold Statement; decide
theorem awlWait (x : BitVec 5) : Statement (.awlWait x) := by revert x; unfold Statement; decide
theorem awlStart (x : BitVec 5) : Statement (.awlStart x) := by revert x; unfold Statement; decide
theorem slWaitRise (x : BitVec 5) : Statement (.slWaitRise x) := by revert x; unfold Statement; decide
theorem slPresent (x : BitVec 5) : Statement (.slPresent x) := by revert x; unfold Statement; decide
theorem slWaitFall (x : BitVec 5) : Statement (.slWaitFall x) := by revert x; unfold Statement; decide
theorem slNext (x : BitVec 4) : Statement (.slNext x) := by revert x; unfold Statement; decide
theorem slLast (x : BitVec 4) : Statement (.slLast x) := by revert x; unfold Statement; decide
theorem awhWait (x : BitVec 6) : Statement (.awhWait x) := by revert x; unfold Statement; decide
theorem awhStart (x : BitVec 6) : Statement (.awhStart x) := by revert x; unfold Statement; decide
theorem srWaitRise (x : BitVec 5) : Statement (.srWaitRise x) := by revert x; unfold Statement; decide
theorem srPresent (x : BitVec 5) : Statement (.srPresent x) := by revert x; unfold Statement; decide
theorem srWaitFall (x : BitVec 5) : Statement (.srWaitFall x) := by revert x; unfold Statement; decide
theorem srNext (x : BitVec 4) : Statement (.srNext x) := by revert x; unfold Statement; decide
theorem srLast (x : BitVec 4) : Statement (.srLast x) := by revert x; unfold Statement; decide
theorem aClosed (x : BitVec 4) : Statement (.aClosed x) := by revert x; unfold Statement; decide
theorem aEos (x : BitVec 3) : Statement (.aEos x) := by revert x; unfold Statement; decide
theorem aIdle (x : BitVec 2) : Statement (.aIdle x) := by revert x; unfold Statement; decide
theorem aAccept (x : BitVec 1) : Statement (.aAccept x) := by revert x; unfold Statement; decide
theorem aComplete : Statement .aComplete := by unfold Statement; decide
theorem aStall : Statement .aStall := by unfold Statement; decide
theorem fifoIdle : Statement .fifoIdle := by unfold Statement; decide
theorem fifoPush : Statement .fifoPush := by unfold Statement; decide
theorem fifoPop : Statement .fifoPop := by unfold Statement; decide
theorem fifoPushPop : Statement .fifoPushPop := by unfold Statement; decide

end Sys2Proof.Laws.EncodesOwnRow
end

