-- ==== Sys2Proof/Laws/Select.lean ====
section
/-! SUPPORT. Which operation a state selects: one lemma per row of spec/30_encoding.md R104 and R108, from the conditions its rule lists
under Operands, so that no proof unfolds a selector word. -/

namespace Sys2Proof.Machine

/-- The fields of the follower selector (R102). -/
theorem selF_bits (s : State) :
    s.selF.getLsbD 9 = s.input.run ∧ s.selF.extractLsb' 7 2 = s.follower.fsm.code ∧
    s.selF.getLsbD 6 = s.follower.phase.bit ∧ s.selF.getLsbD 5 = s.follower.frameValid ∧
    s.selF.getLsbD 4 = s.fifoNe ∧ s.selF.getLsbD 3 = s.wsS ∧ s.selF.getLsbD 2 = s.rise ∧
    s.selF.getLsbD 1 = s.fall ∧ s.selF.getLsbD 0 = s.idxZero := by
  have key : ∀ (k : Fsm) (a b c d e f g h : Bool),
      let w : BitVec 10 := BitVec.ofBool a ++ k.code ++ BitVec.ofBool b ++ BitVec.ofBool c ++ BitVec.ofBool d ++
        BitVec.ofBool e ++ BitVec.ofBool f ++ BitVec.ofBool g ++ BitVec.ofBool h
      w.getLsbD 9 = a ∧ w.extractLsb' 7 2 = k.code ∧ w.getLsbD 6 = b ∧ w.getLsbD 5 = c ∧ w.getLsbD 4 = d ∧
        w.getLsbD 3 = e ∧ w.getLsbD 2 = f ∧ w.getLsbD 1 = g ∧ w.getLsbD 0 = h := by
    intro k; cases k <;> decide +kernel
  exact key _ _ _ _ _ _ _ _ _

/-- `rise` and `fall` are never both 1 (R51), so no state forms a reserved selector (R106). -/
theorem rise_fall_exclusive (s : State) : ¬(s.rise = true ∧ s.fall = true) := by
  simp only [State.rise, State.fall]
  cases s.sync.bclkPrev <;> simp

theorem selF_not_reserved (s : State) : s.selF &&& 0x006 ≠ 0x006 := by
  have key : ∀ f : BitVec 10, f &&& 0x006 = 0x006 → f.getLsbD 2 = true ∧ f.getLsbD 1 = true := by decide +kernel
  intro h
  obtain ⟨h2, h1⟩ := key _ h
  obtain ⟨-, -, -, -, -, -, b2, b1, -⟩ := selF_bits s
  exact rise_fall_exclusive s ⟨b2 ▸ h2, b1 ▸ h1⟩

/-! ## The follower (R104) -/

/-- F_HOLD is selected (R133). -/
theorem selects_fHold {s : State} (hrun : s.input.run = false) :
    ∃ x, decodeF s.selF = .ok (.fHold x) := by
  have key : ∀ f : BitVec 10, f &&& 0x006 ≠ 0x006 → f.getLsbD 9 = false →
      (match decodeF f with | .ok (.fHold _) => true | _ => false) = true := by decide +kernel
  obtain ⟨b9, -, -, -, -, -, -, -, -⟩ := selF_bits s
  have h := key _ (selF_not_reserved s) (b9.trans hrun)
  split at h
  · next x hx => exact ⟨x, hx⟩
  · cases h

/-- AWL_STARVE is selected (R134). -/
theorem selects_awlStarve {s : State} (hrun : s.input.run = true) (hfsm : s.follower.fsm = .awl) (hfv : s.follower.frameValid = false) (hne : s.fifoNe = false) :
    ∃ x, decodeF s.selF = .ok (.awlStarve x) := by
  have key : ∀ f : BitVec 10, f &&& 0x006 ≠ 0x006 → f.getLsbD 9 = true → f.extractLsb' 7 2 = 0b00#2 → f.getLsbD 5 = false → f.getLsbD 4 = false →
      (match decodeF f with | .ok (.awlStarve _) => true | _ => false) = true := by decide +kernel
  obtain ⟨b9, bs, -, b5, b4, -, -, -, -⟩ := selF_bits s
  have h := key _ (selF_not_reserved s) (b9.trans hrun) (by rw [bs, hfsm]; rfl) (b5.trans hfv) (b4.trans hne)
  split at h
  · next x hx => exact ⟨x, hx⟩
  · cases h

/-- AWL_POP is selected (R135). -/
theorem selects_awlPop {s : State} (hrun : s.input.run = true) (hfsm : s.follower.fsm = .awl) (hfv : s.follower.frameValid = false) (hne : s.fifoNe = true) (hws : s.wsS = true) :
    ∃ x, decodeF s.selF = .ok (.awlPop x) := by
  have key : ∀ f : BitVec 10, f &&& 0x006 ≠ 0x006 → f.getLsbD 9 = true → f.extractLsb' 7 2 = 0b00#2 → f.getLsbD 5 = false → f.getLsbD 4 = true → f.getLsbD 3 = true →
      (match decodeF f with | .ok (.awlPop _) => true | _ => false) = true := by decide +kernel
  obtain ⟨b9, bs, -, b5, b4, b3, -, -, -⟩ := selF_bits s
  have h := key _ (selF_not_reserved s) (b9.trans hrun) (by rw [bs, hfsm]; rfl) (b5.trans hfv) (b4.trans hne) (b3.trans hws)
  split at h
  · next x hx => exact ⟨x, hx⟩
  · cases h

/-- AWL_POP_START is selected (R136). -/
theorem selects_awlPopStart {s : State} (hrun : s.input.run = true) (hfsm : s.follower.fsm = .awl) (hfv : s.follower.frameValid = false) (hne : s.fifoNe = true) (hws : s.wsS = false) :
    ∃ x, decodeF s.selF = .ok (.awlPopStart x) := by
  have key : ∀ f : BitVec 10, f &&& 0x006 ≠ 0x006 → f.getLsbD 9 = true → f.extractLsb' 7 2 = 0b00#2 → f.getLsbD 5 = false → f.getLsbD 4 = true → f.getLsbD 3 = false →
      (match decodeF f with | .ok (.awlPopStart _) => true | _ => false) = true := by decide +kernel
  obtain ⟨b9, bs, -, b5, b4, b3, -, -, -⟩ := selF_bits s
  have h := key _ (selF_not_reserved s) (b9.trans hrun) (by rw [bs, hfsm]; rfl) (b5.trans hfv) (b4.trans hne) (b3.trans hws)
  split at h
  · next x hx => exact ⟨x, hx⟩
  · cases h

/-- AWL_WAIT is selected (R137). -/
theorem selects_awlWait {s : State} (hrun : s.input.run = true) (hfsm : s.follower.fsm = .awl) (hfv : s.follower.frameValid = true) (hws : s.wsS = true) :
    ∃ x, decodeF s.selF = .ok (.awlWait x) := by
  have key : ∀ f : BitVec 10, f &&& 0x006 ≠ 0x006 → f.getLsbD 9 = true → f.extractLsb' 7 2 = 0b00#2 → f.getLsbD 5 = true → f.getLsbD 3 = true →
      (match decodeF f with | .ok (.awlWait _) => true | _ => false) = true := by decide +kernel
  obtain ⟨b9, bs, -, b5, -, b3, -, -, -⟩ := selF_bits s
  have h := key _ (selF_not_reserved s) (b9.trans hrun) (by rw [bs, hfsm]; rfl) (b5.trans hfv) (b3.trans hws)
  split at h
  · next x hx => exact ⟨x, hx⟩
  · cases h

/-- AWL_START is selected (R138). -/
theorem selects_awlStart {s : State} (hrun : s.input.run = true) (hfsm : s.follower.fsm = .awl) (hfv : s.follower.frameValid = true) (hws : s.wsS = false) :
    ∃ x, decodeF s.selF = .ok (.awlStart x) := by
  have key : ∀ f : BitVec 10, f &&& 0x006 ≠ 0x006 → f.getLsbD 9 = true → f.extractLsb' 7 2 = 0b00#2 → f.getLsbD 5 = true → f.getLsbD 3 = false →
      (match decodeF f with | .ok (.awlStart _) => true | _ => false) = true := by decide +kernel
  obtain ⟨b9, bs, -, b5, -, b3, -, -, -⟩ := selF_bits s
  have h := key _ (selF_not_reserved s) (b9.trans hrun) (by rw [bs, hfsm]; rfl) (b5.trans hfv) (b3.trans hws)
  split at h
  · next x hx => exact ⟨x, hx⟩
  · cases h

/-- SL_WAIT_RISE is selected (R139). -/
theorem selects_slWaitRise {s : State} (hrun : s.input.run = true) (hfsm : s.follower.fsm = .sl) (hphase : s.follower.phase = .waitRise) (hrise : s.rise = false) :
    ∃ x, decodeF s.selF = .ok (.slWaitRise x) := by
  have key : ∀ f : BitVec 10, f &&& 0x006 ≠ 0x006 → f.getLsbD 9 = true → f.extractLsb' 7 2 = 0b01#2 → f.getLsbD 6 = false → f.getLsbD 2 = false →
      (match decodeF f with | .ok (.slWaitRise _) => true | _ => false) = true := by decide +kernel
  obtain ⟨b9, bs, b6, -, -, -, b2, -, -⟩ := selF_bits s
  have h := key _ (selF_not_reserved s) (b9.trans hrun) (by rw [bs, hfsm]; rfl) (by rw [b6, hphase]; rfl) (b2.trans hrise)
  split at h
  · next x hx => exact ⟨x, hx⟩
  · cases h

/-- SL_PRESENT is selected (R140). -/
theorem selects_slPresent {s : State} (hrun : s.input.run = true) (hfsm : s.follower.fsm = .sl) (hphase : s.follower.phase = .waitRise) (hrise : s.rise = true) :
    ∃ x, decodeF s.selF = .ok (.slPresent x) := by
  have key : ∀ f : BitVec 10, f &&& 0x006 ≠ 0x006 → f.getLsbD 9 = true → f.extractLsb' 7 2 = 0b01#2 → f.getLsbD 6 = false → f.getLsbD 2 = true →
      (match decodeF f with | .ok (.slPresent _) => true | _ => false) = true := by decide +kernel
  obtain ⟨b9, bs, b6, -, -, -, b2, -, -⟩ := selF_bits s
  have h := key _ (selF_not_reserved s) (b9.trans hrun) (by rw [bs, hfsm]; rfl) (by rw [b6, hphase]; rfl) (b2.trans hrise)
  split at h
  · next x hx => exact ⟨x, hx⟩
  · cases h

/-- SL_WAIT_FALL is selected (R141). -/
theorem selects_slWaitFall {s : State} (hrun : s.input.run = true) (hfsm : s.follower.fsm = .sl) (hphase : s.follower.phase = .waitFall) (hfall : s.fall = false) :
    ∃ x, decodeF s.selF = .ok (.slWaitFall x) := by
  have key : ∀ f : BitVec 10, f &&& 0x006 ≠ 0x006 → f.getLsbD 9 = true → f.extractLsb' 7 2 = 0b01#2 → f.getLsbD 6 = true → f.getLsbD 1 = false →
      (match decodeF f with | .ok (.slWaitFall _) => true | _ => false) = true := by decide +kernel
  obtain ⟨b9, bs, b6, -, -, -, -, b1, -⟩ := selF_bits s
  have h := key _ (selF_not_reserved s) (b9.trans hrun) (by rw [bs, hfsm]; rfl) (by rw [b6, hphase]; rfl) (b1.trans hfall)
  split at h
  · next x hx => exact ⟨x, hx⟩
  · cases h

/-- SL_NEXT is selected (R142). -/
theorem selects_slNext {s : State} (hrun : s.input.run = true) (hfsm : s.follower.fsm = .sl) (hphase : s.follower.phase = .waitFall) (hfall : s.fall = true) (hiz : s.idxZero = false) :
    ∃ x, decodeF s.selF = .ok (.slNext x) := by
  have key : ∀ f : BitVec 10, f &&& 0x006 ≠ 0x006 → f.getLsbD 9 = true → f.extractLsb' 7 2 = 0b01#2 → f.getLsbD 6 = true → f.getLsbD 1 = true → f.getLsbD 0 = false →
      (match decodeF f with | .ok (.slNext _) => true | _ => false) = true := by decide +kernel
  obtain ⟨b9, bs, b6, -, -, -, -, b1, b0⟩ := selF_bits s
  have h := key _ (selF_not_reserved s) (b9.trans hrun) (by rw [bs, hfsm]; rfl) (by rw [b6, hphase]; rfl) (b1.trans hfall) (b0.trans hiz)
  split at h
  · next x hx => exact ⟨x, hx⟩
  · cases h

/-- SL_LAST is selected (R143). -/
theorem selects_slLast {s : State} (hrun : s.input.run = true) (hfsm : s.follower.fsm = .sl) (hphase : s.follower.phase = .waitFall) (hfall : s.fall = true) (hiz : s.idxZero = true) :
    ∃ x, decodeF s.selF = .ok (.slLast x) := by
  have key : ∀ f : BitVec 10, f &&& 0x006 ≠ 0x006 → f.getLsbD 9 = true → f.extractLsb' 7 2 = 0b01#2 → f.getLsbD 6 = true → f.getLsbD 1 = true → f.getLsbD 0 = true →
      (match decodeF f with | .ok (.slLast _) => true | _ => false) = true := by decide +kernel
  obtain ⟨b9, bs, b6, -, -, -, -, b1, b0⟩ := selF_bits s
  have h := key _ (selF_not_reserved s) (b9.trans hrun) (by rw [bs, hfsm]; rfl) (by rw [b6, hphase]; rfl) (b1.trans hfall) (b0.trans hiz)
  split at h
  · next x hx => exact ⟨x, hx⟩
  · cases h

/-- AWH_WAIT is selected (R144). -/
theorem selects_awhWait {s : State} (hrun : s.input.run = true) (hfsm : s.follower.fsm = .awh) (hws : s.wsS = false) :
    ∃ x, decodeF s.selF = .ok (.awhWait x) := by
  have key : ∀ f : BitVec 10, f &&& 0x006 ≠ 0x006 → f.getLsbD 9 = true → f.extractLsb' 7 2 = 0b10#2 → f.getLsbD 3 = false →
      (match decodeF f with | .ok (.awhWait _) => true | _ => false) = true := by decide +kernel
  obtain ⟨b9, bs, -, -, -, b3, -, -, -⟩ := selF_bits s
  have h := key _ (selF_not_reserved s) (b9.trans hrun) (by rw [bs, hfsm]; rfl) (b3.trans hws)
  split at h
  · next x hx => exact ⟨x, hx⟩
  · cases h

/-- AWH_START is selected (R145). -/
theorem selects_awhStart {s : State} (hrun : s.input.run = true) (hfsm : s.follower.fsm = .awh) (hws : s.wsS = true) :
    ∃ x, decodeF s.selF = .ok (.awhStart x) := by
  have key : ∀ f : BitVec 10, f &&& 0x006 ≠ 0x006 → f.getLsbD 9 = true → f.extractLsb' 7 2 = 0b10#2 → f.getLsbD 3 = true →
      (match decodeF f with | .ok (.awhStart _) => true | _ => false) = true := by decide +kernel
  obtain ⟨b9, bs, -, -, -, b3, -, -, -⟩ := selF_bits s
  have h := key _ (selF_not_reserved s) (b9.trans hrun) (by rw [bs, hfsm]; rfl) (b3.trans hws)
  split at h
  · next x hx => exact ⟨x, hx⟩
  · cases h

/-- SR_WAIT_RISE is selected (R146). -/
theorem selects_srWaitRise {s : State} (hrun : s.input.run = true) (hfsm : s.follower.fsm = .sr) (hphase : s.follower.phase = .waitRise) (hrise : s.rise = false) :
    ∃ x, decodeF s.selF = .ok (.srWaitRise x) := by
  have key : ∀ f : BitVec 10, f &&& 0x006 ≠ 0x006 → f.getLsbD 9 = true → f.extractLsb' 7 2 = 0b11#2 → f.getLsbD 6 = false → f.getLsbD 2 = false →
      (match decodeF f with | .ok (.srWaitRise _) => true | _ => false) = true := by decide +kernel
  obtain ⟨b9, bs, b6, -, -, -, b2, -, -⟩ := selF_bits s
  have h := key _ (selF_not_reserved s) (b9.trans hrun) (by rw [bs, hfsm]; rfl) (by rw [b6, hphase]; rfl) (b2.trans hrise)
  split at h
  · next x hx => exact ⟨x, hx⟩
  · cases h

/-- SR_PRESENT is selected (R147). -/
theorem selects_srPresent {s : State} (hrun : s.input.run = true) (hfsm : s.follower.fsm = .sr) (hphase : s.follower.phase = .waitRise) (hrise : s.rise = true) :
    ∃ x, decodeF s.selF = .ok (.srPresent x) := by
  have key : ∀ f : BitVec 10, f &&& 0x006 ≠ 0x006 → f.getLsbD 9 = true → f.extractLsb' 7 2 = 0b11#2 → f.getLsbD 6 = false → f.getLsbD 2 = true →
      (match decodeF f with | .ok (.srPresent _) => true | _ => false) = true := by decide +kernel
  obtain ⟨b9, bs, b6, -, -, -, b2, -, -⟩ := selF_bits s
  have h := key _ (selF_not_reserved s) (b9.trans hrun) (by rw [bs, hfsm]; rfl) (by rw [b6, hphase]; rfl) (b2.trans hrise)
  split at h
  · next x hx => exact ⟨x, hx⟩
  · cases h

/-- SR_WAIT_FALL is selected (R148). -/
theorem selects_srWaitFall {s : State} (hrun : s.input.run = true) (hfsm : s.follower.fsm = .sr) (hphase : s.follower.phase = .waitFall) (hfall : s.fall = false) :
    ∃ x, decodeF s.selF = .ok (.srWaitFall x) := by
  have key : ∀ f : BitVec 10, f &&& 0x006 ≠ 0x006 → f.getLsbD 9 = true → f.extractLsb' 7 2 = 0b11#2 → f.getLsbD 6 = true → f.getLsbD 1 = false →
      (match decodeF f with | .ok (.srWaitFall _) => true | _ => false) = true := by decide +kernel
  obtain ⟨b9, bs, b6, -, -, -, -, b1, -⟩ := selF_bits s
  have h := key _ (selF_not_reserved s) (b9.trans hrun) (by rw [bs, hfsm]; rfl) (by rw [b6, hphase]; rfl) (b1.trans hfall)
  split at h
  · next x hx => exact ⟨x, hx⟩
  · cases h

/-- SR_NEXT is selected (R149). -/
theorem selects_srNext {s : State} (hrun : s.input.run = true) (hfsm : s.follower.fsm = .sr) (hphase : s.follower.phase = .waitFall) (hfall : s.fall = true) (hiz : s.idxZero = false) :
    ∃ x, decodeF s.selF = .ok (.srNext x) := by
  have key : ∀ f : BitVec 10, f &&& 0x006 ≠ 0x006 → f.getLsbD 9 = true → f.extractLsb' 7 2 = 0b11#2 → f.getLsbD 6 = true → f.getLsbD 1 = true → f.getLsbD 0 = false →
      (match decodeF f with | .ok (.srNext _) => true | _ => false) = true := by decide +kernel
  obtain ⟨b9, bs, b6, -, -, -, -, b1, b0⟩ := selF_bits s
  have h := key _ (selF_not_reserved s) (b9.trans hrun) (by rw [bs, hfsm]; rfl) (by rw [b6, hphase]; rfl) (b1.trans hfall) (b0.trans hiz)
  split at h
  · next x hx => exact ⟨x, hx⟩
  · cases h

/-- SR_LAST is selected (R150). -/
theorem selects_srLast {s : State} (hrun : s.input.run = true) (hfsm : s.follower.fsm = .sr) (hphase : s.follower.phase = .waitFall) (hfall : s.fall = true) (hiz : s.idxZero = true) :
    ∃ x, decodeF s.selF = .ok (.srLast x) := by
  have key : ∀ f : BitVec 10, f &&& 0x006 ≠ 0x006 → f.getLsbD 9 = true → f.extractLsb' 7 2 = 0b11#2 → f.getLsbD 6 = true → f.getLsbD 1 = true → f.getLsbD 0 = true →
      (match decodeF f with | .ok (.srLast _) => true | _ => false) = true := by decide +kernel
  obtain ⟨b9, bs, b6, -, -, -, -, b1, b0⟩ := selF_bits s
  have h := key _ (selF_not_reserved s) (b9.trans hrun) (by rw [bs, hfsm]; rfl) (by rw [b6, hphase]; rfl) (b1.trans hfall) (b0.trans hiz)
  split at h
  · next x hx => exact ⟨x, hx⟩
  · cases h

/-! ## The assembler (R108) -/

/-- The fields of the assembler selector (R107). -/
theorem selA_bits (s : State) :
    s.selA.getLsbD 4 = s.assembler.eosSeen ∧ s.selA.getLsbD 3 = s.input.inEos ∧ s.selA.getLsbD 2 = s.input.inValid ∧
    s.selA.getLsbD 1 = s.bcnt3 ∧ s.selA.getLsbD 0 = s.fifoNf := by
  have key : ∀ (a b c d e : Bool),
      let w : BitVec 5 := BitVec.ofBool a ++ BitVec.ofBool b ++ BitVec.ofBool c ++ BitVec.ofBool d ++ BitVec.ofBool e
      w.getLsbD 4 = a ∧ w.getLsbD 3 = b ∧ w.getLsbD 2 = c ∧ w.getLsbD 1 = d ∧ w.getLsbD 0 = e := by decide
  exact key _ _ _ _ _

/-- A_CLOSED is selected (R192). -/
theorem selects_aClosed {s : State} (hes : s.assembler.eosSeen = true) :
    ∃ x, decodeA s.selA = .ok (.aClosed x) := by
  have key : ∀ a : BitVec 5, a.getLsbD 4 = true →
      (match decodeA a with | .ok (.aClosed _) => true | _ => false) = true := by decide
  obtain ⟨c4, -, -, -, -⟩ := selA_bits s
  have h := key _ (c4.trans hes)
  split at h
  · next x hx => exact ⟨x, hx⟩
  · cases h

/-- A_EOS is selected (R193). -/
theorem selects_aEos {s : State} (hes : s.assembler.eosSeen = false) (heo : s.input.inEos = true) :
    ∃ x, decodeA s.selA = .ok (.aEos x) := by
  have key : ∀ a : BitVec 5, a.getLsbD 4 = false → a.getLsbD 3 = true →
      (match decodeA a with | .ok (.aEos _) => true | _ => false) = true := by decide
  obtain ⟨c4, c3, -, -, -⟩ := selA_bits s
  have h := key _ (c4.trans hes) (c3.trans heo)
  split at h
  · next x hx => exact ⟨x, hx⟩
  · cases h

/-- A_IDLE is selected (R194). -/
theorem selects_aIdle {s : State} (hes : s.assembler.eosSeen = false) (heo : s.input.inEos = false) (hiv : s.input.inValid = false) :
    ∃ x, decodeA s.selA = .ok (.aIdle x) := by
  have key : ∀ a : BitVec 5, a.getLsbD 4 = false → a.getLsbD 3 = false → a.getLsbD 2 = false →
      (match decodeA a with | .ok (.aIdle _) => true | _ => false) = true := by decide
  obtain ⟨c4, c3, c2, -, -⟩ := selA_bits s
  have h := key _ (c4.trans hes) (c3.trans heo) (c2.trans hiv)
  split at h
  · next x hx => exact ⟨x, hx⟩
  · cases h

/-- A_ACCEPT is selected (R195). -/
theorem selects_aAccept {s : State} (hes : s.assembler.eosSeen = false) (heo : s.input.inEos = false) (hiv : s.input.inValid = true) (hb3 : s.bcnt3 = false) :
    ∃ x, decodeA s.selA = .ok (.aAccept x) := by
  have key : ∀ a : BitVec 5, a.getLsbD 4 = false → a.getLsbD 3 = false → a.getLsbD 2 = true → a.getLsbD 1 = false →
      (match decodeA a with | .ok (.aAccept _) => true | _ => false) = true := by decide
  obtain ⟨c4, c3, c2, c1, -⟩ := selA_bits s
  have h := key _ (c4.trans hes) (c3.trans heo) (c2.trans hiv) (c1.trans hb3)
  split at h
  · next x hx => exact ⟨x, hx⟩
  · cases h

/-- A_COMPLETE is selected (R196). -/
theorem selects_aComplete {s : State} (hes : s.assembler.eosSeen = false) (heo : s.input.inEos = false) (hiv : s.input.inValid = true) (hb3 : s.bcnt3 = true) (hnf : s.fifoNf = true) :
    decodeA s.selA = .ok .aComplete := by
  have key : ∀ a : BitVec 5, a.getLsbD 4 = false → a.getLsbD 3 = false → a.getLsbD 2 = true → a.getLsbD 1 = true → a.getLsbD 0 = true →
      (match decodeA a with | .ok .aComplete => true | _ => false) = true := by decide
  obtain ⟨c4, c3, c2, c1, c0⟩ := selA_bits s
  have h := key _ (c4.trans hes) (c3.trans heo) (c2.trans hiv) (c1.trans hb3) (c0.trans hnf)
  split at h
  · next hx => exact hx
  · cases h

/-- A_STALL is selected (R197). -/
theorem selects_aStall {s : State} (hes : s.assembler.eosSeen = false) (heo : s.input.inEos = false) (hiv : s.input.inValid = true) (hb3 : s.bcnt3 = true) (hnf : s.fifoNf = false) :
    decodeA s.selA = .ok .aStall := by
  have key : ∀ a : BitVec 5, a.getLsbD 4 = false → a.getLsbD 3 = false → a.getLsbD 2 = true → a.getLsbD 1 = true → a.getLsbD 0 = false →
      (match decodeA a with | .ok .aStall => true | _ => false) = true := by decide
  obtain ⟨c4, c3, c2, c1, c0⟩ := selA_bits s
  have h := key _ (c4.trans hes) (c3.trans heo) (c2.trans hiv) (c1.trans hb3) (c0.trans hnf)
  split at h
  · next hx => exact hx
  · cases h

/-! ## The FIFO (R109) -/

/-- The FIFO operation is chosen by `push` and `pop`. -/
theorem decodeP_selP (s : State) :
    decodeP s.selP = match s.push, s.pop with
      | false, false => .fifoIdle
      | true, false => .fifoPush
      | false, true => .fifoPop
      | true, true => .fifoPushPop := by
  have key : ∀ a b : Bool, decodeP (BitVec.ofBool a ++ BitVec.ofBool b) = match a, b with
      | false, false => .fifoIdle
      | true, false => .fifoPush
      | false, true => .fifoPop
      | true, true => .fifoPushPop := by decide
  exact key s.push s.pop

end Sys2Proof.Machine
end

