-- ==== Sys2Proof/Tests/Slice0.lean ====
section
/-! SUPPORT. Tests of the model: smoke tests of the well-formedness checks, the decoding of words written out from the spec's patterns, the
single-step vectors of spec/95_test_vectors.md, and a witness for every statement that has hypotheses. -/

namespace Sys2Proof.Tests

open Sys2Proof Sys2Proof.Machine

/-! ## Well-formedness: every check refuses an ill-formed term -/

/-- R106: rise (the tested bit of SL_PRESENT) and fall (an untested bit) together. -/
theorem test_wellFormed_refuses_rise_with_fall : (Instr.slPresent 0b00010).wellFormed = false := by decide
/-- R106: fall (the tested bit of SR_LAST) and rise together. -/
theorem test_wellFormed_refuses_fall_with_rise : (Instr.srLast 0b0001).wellFormed = false := by decide
/-- R106: both in bits that the row of F_HOLD does not test. -/
theorem test_wellFormed_refuses_hold_with_both : (Instr.fHold 0b000000110).wellFormed = false := by decide
theorem test_wellFormed_takes_present : (Instr.slPresent 0b10001).wellFormed = true := by decide
/-- R10: `C >= 1`. -/
theorem test_params_refuse_no_slot : (Params.mk 0 2).wellFormed = false := by decide
/-- R11: `N >= 1`. -/
theorem test_params_refuse_no_stage : (Params.mk 4 0).wellFormed = false := by decide
theorem test_params_take_the_least : (Params.mk 1 1).wellFormed = true := by decide

/-! ## Decoding: words written out bit by bit from the patterns of R101, R104, R108 and R109

The follower words are those of the vectors F1 to F19 of spec/95_test_vectors.md, in binary, low byte first. -/

theorem test_decode_fHold : decode .follower [0b10100100, 0b00] = .ok (.fHold 0b010100100) := by rfl
theorem test_decode_awlStarve : decode .follower [0b00000001, 0b10] = .ok (.awlStarve 0b00001) := by rfl
theorem test_decode_awlPop : decode .follower [0b00011001, 0b10] = .ok (.awlPop 0b0001) := by rfl
theorem test_decode_awlPopStart : decode .follower [0b00010001, 0b10] = .ok (.awlPopStart 0b0001) := by rfl
theorem test_decode_awlWait : decode .follower [0b00101001, 0b10] = .ok (.awlWait 0b00001) := by rfl
theorem test_decode_awlStart : decode .follower [0b00110001, 0b10] = .ok (.awlStart 0b01001) := by rfl
theorem test_decode_slWaitRise : decode .follower [0b10100000, 0b10] = .ok (.slWaitRise 0b10000) := by rfl
theorem test_decode_slPresent : decode .follower [0b10100100, 0b10] = .ok (.slPresent 0b10000) := by rfl
theorem test_decode_slWaitFall : decode .follower [0b11100000, 0b10] = .ok (.slWaitFall 0b10000) := by rfl
theorem test_decode_slNext : decode .follower [0b11100010, 0b10] = .ok (.slNext 0b1000) := by rfl
theorem test_decode_slLast : decode .follower [0b11100011, 0b10] = .ok (.slLast 0b1000) := by rfl
theorem test_decode_awhWait : decode .follower [0b00100001, 0b11] = .ok (.awhWait 0b010001) := by rfl
theorem test_decode_awhStart : decode .follower [0b00101001, 0b11] = .ok (.awhStart 0b010001) := by rfl
theorem test_decode_srWaitRise : decode .follower [0b10101000, 0b11] = .ok (.srWaitRise 0b10100) := by rfl
theorem test_decode_srPresent : decode .follower [0b10101101, 0b11] = .ok (.srPresent 0b10101) := by rfl
theorem test_decode_srWaitFall : decode .follower [0b11101001, 0b11] = .ok (.srWaitFall 0b10101) := by rfl
theorem test_decode_srNext : decode .follower [0b11101010, 0b11] = .ok (.srNext 0b1010) := by rfl
theorem test_decode_srLast : decode .follower [0b11111011, 0b11] = .ok (.srLast 0b1110) := by rfl
theorem test_decode_reset : decode .global [0b1] = .ok .reset := by rfl
theorem test_decode_step : decode .global [0b0] = .ok .step := by rfl
theorem test_decode_aClosed : decode .assembler [0b10101] = .ok (.aClosed 0b0101) := by rfl
theorem test_decode_aEos : decode .assembler [0b01011] = .ok (.aEos 0b011) := by rfl
theorem test_decode_aIdle : decode .assembler [0b00001] = .ok (.aIdle 0b01) := by rfl
theorem test_decode_aAccept : decode .assembler [0b00101] = .ok (.aAccept 0b1) := by rfl
theorem test_decode_aComplete : decode .assembler [0b00111] = .ok .aComplete := by rfl
theorem test_decode_aStall : decode .assembler [0b00110] = .ok .aStall := by rfl
theorem test_decode_fifoIdle : decode .fifo [0b00] = .ok .fifoIdle := by rfl
theorem test_decode_fifoPush : decode .fifo [0b10] = .ok .fifoPush := by rfl
theorem test_decode_fifoPop : decode .fifo [0b01] = .ok .fifoPop := by rfl
theorem test_decode_fifoPushPop : decode .fifo [0b11] = .ok .fifoPushPop := by rfl

/-- R106: rise and fall together. -/
theorem test_decode_refuses_rise_with_fall : decode .follower [0b10100110, 0b10] = .error .riseAndFall := by rfl
theorem test_decode_refuses_padding : decode .follower [0b10100100, 0b110] = .error .padding := by rfl
theorem test_decode_refuses_padding_of_p : decode .fifo [0b100] = .error .padding := by rfl
theorem test_decode_refuses_one_byte : decode .follower [0b10100100] = .error .length := by rfl
theorem test_decode_refuses_no_byte : decode .global [] = .error .length := by rfl

/-- R114's example: `I = 0x1201` means `run = 1`, `in_valid = 1`, `in_byte = 0x01`. -/
theorem test_input_vector_example : InputWord.pack false true false false true false 0x01 = 0x1201 := by decide
/-- R115: `RST` is one step with `rst = 1`, the word `0x2000` (spec/95_test_vectors.md section 4). -/
theorem test_rst_word : rstWord = 0x2000 := by decide

/-- The first ten input words of the program P1 (spec/95_test_vectors.md section 5), its master not started yet. -/
theorem test_stimulus_of_P1 :
    Stimulus.words
      { byteSide := [.bytes [0x01, 0x00, 0x02, 0x00], .eos], pinSide := [.master 3 16 0 true 10], runSide := [(0, true)] }
      State.reset =
        [0x1601, 0x1600, 0x1602, 0x1600, 0x1500, 0x1400, 0x1400, 0x1400, 0x1400, 0x1400] := by decide
/-- One BCLK period of a slot with `H=3` (P1): three steps low, three steps high. -/
theorem test_slot_pins : slotPins 3 1 true = [(false, true), (false, true), (false, true), (true, true), (true, true), (true, true)] := by
  decide

/-! ## The first step after reset -/

/-- Whether the next step of `s` is a STEP with follower selector `w` and goes on. -/
def formsF (s : State) (w : Nat) : Bool :=
  s.fetch == .step && s.selF.toNat == w && match step s with | .next _ => true | _ => false

theorem test_withFetchWord_places_awl_rows :
    [0x000, 0x200, 0x218, 0x210, 0x228, 0x220].all (fun w => formsF (State.reset.withFetchWord 16 w) w) = true := by decide
theorem test_withFetchWord_places_sl_rows :
    [0x280, 0x284, 0x2C0, 0x2C2, 0x2C3].all (fun w => formsF (State.reset.withFetchWord 16 w) w) = true := by decide
theorem test_withFetchWord_places_awh_and_sr_rows :
    [0x300, 0x308, 0x380, 0x384, 0x3C0, 0x3C2, 0x3C3].all (fun w => formsF (State.reset.withFetchWord 16 w) w) = true := by decide
theorem test_withFetchWord_places_assembler_rows :
    [0x10, 0x08, 0x05, 0x04, 0x07, 0x06].all
      (fun w => (State.reset.withFetchWord 8 w).fetch == .step && (State.reset.withFetchWord 8 w).selA.toNat == w) = true := by
  decide
theorem test_withFetchWord_places_fifo_rows :
    [2, 3].all (fun w => (State.reset.withFetchWord 8 w).fetch == .step && (State.reset.withFetchWord 8 w).selP.toNat == w) =
      true := by decide
theorem test_withFetchWord_places_reset : (State.reset.withFetchWord 8 1).fetch = .reset := by decide
/-- notes/assumptions/5.md: a word of a selector's own width is of that selector's table. -/
theorem test_decodeTableWord_by_width :
    [decodeTableWord 1 0, decodeTableWord 2 0, decodeTableWord 5 0, decodeTableWord 10 0, decodeTableWord 3 0, decodeTableWord 1 2] =
      [some .step, some .fifoIdle, some (.aIdle 0), some (.fHold 0), none, none] := by decide

/-! ## The single-step vectors of spec/95_test_vectors.md section 2 (`N = 2`) -/

/-- The storage the vectors start with: its first `c` entries. -/
def slots (c : Nat) : Memory := [(0, 0x11112222#32), (1, 0x33334444#32), (2, 0x55556666#32), (3, 0x77778888#32)].take c

/-- A ring buffer over `slots c`. -/
def ring (c rd wr n : Nat) : Fifo := { mem := slots c, rdPtr := rd, wrPtr := wr, count := n }

/-- An assembler with `bcnt`, `carry` and `bytes_rx`. -/
def holding (bcnt : BitVec 2) (c0 c1 c2 : Byte) (rx : Count32) : Assembler :=
  { Assembler.reset with carry := { c0 := c0, c1 := c1, c2 := c2 }, bcnt := bcnt, bytesRx := rx }

/-- A follower with a frame held. -/
def onFrame (fsm : Fsm) (phase : Phase) (idx : BitIndex) (frame : FrameWord) : Follower :=
  { Follower.reset with fsm := fsm, phase := phase, idx := idx, frame := frame, frameValid := true }

/-- A start state: every stage of `bsync` and `wsync` at the sample, the pins equal to the samples, one input vector chosen. -/
def vec (c : Nat) (run bclk prev ws : Bool) (f : Follower) (q : Fifo) (a : Assembler) (valid eos : Bool) (byte : Byte) : State :=
  { params := { fifoDepth := c, syncStages := 2 }
    follower := f
    sync := { bsync := [bclk, bclk], wsync := [ws, ws], bclkPrev := prev }
    fifo := q
    assembler := a
    stimulus := [InputWord.pack false run bclk ws valid eos byte]
    draws := 0 }

/-- A follower vector: the assembler idle, `C = 4`. -/
def fvec (run bclk prev ws : Bool) (f : Follower) (q : Fifo) : State := vec 4 run bclk prev ws f q Assembler.reset false false 0

/-- An assembler vector: `run = 0`, so the follower is F_HOLD. -/
def avec (c : Nat) (q : Fifo) (a : Assembler) (valid eos : Bool) (byte : Byte) : State :=
  vec c false false false false Follower.reset q a valid eos byte

/-- The step of `s` forms the three selector words and answers `t`, its one input vector consumed. -/
def performs (s : State) (f : BitVec 10) (a : BitVec 5) (p : BitVec 2) (t : State) : Bool :=
  s.selF == f && s.selA == a && s.selP == p &&
    match step s with
    | .next u => decide (u = { t with stimulus := [] })
    | _ => false

def vF1 : State := fvec false true false false (onFrame .sl .waitRise 9 0x00010002) (ring 4 0 0 0)
/-- F1: F_HOLD, the rise is lost. -/
theorem test_F1 : performs vF1 0x0A4 0x01 0b00 { vF1 with sync := { vF1.sync with bclkPrev := true } } = true := by decide
def vF2 : State := { fvec true false false false Follower.reset (ring 4 0 0 0) with stimulus := [InputWord.pack false true true true false false 0] }
/-- F2: AWL_STARVE on the reset state, both pins high. -/
theorem test_F2 :
    performs vF2 0x201 0x01 0b00 { vF2 with sync := { bsync := [true, false], wsync := [true, false], bclkPrev := false } } = true := by decide
def vF3 : State := fvec true false false true Follower.reset (ring 4 0 0 1)
/-- F3: AWL_POP. -/
theorem test_F3 :
    performs vF3 0x219 0x01 0b01 { vF3 with follower := { Follower.reset with frame := 0x11112222, frameValid := true }, fifo := ring 4 1 0 0 } = true := by decide
def vF4 : State := fvec true false false false Follower.reset (ring 4 3 0 2)
/-- F4: AWL_POP_START. -/
theorem test_F4 :
    performs vF4 0x211 0x01 0b01 { vF4 with follower := onFrame .sl .waitRise 15 0x77778888, fifo := ring 4 0 0 1 } = true := by decide
def vF5 : State := fvec true false false true (onFrame .awl .waitRise 0 0x00010002) (ring 4 0 0 0)
/-- F5: AWL_WAIT. -/
theorem test_F5 : performs vF5 0x229 0x01 0b00 vF5 = true := by decide
def vF6 : State := fvec true false false false (onFrame .awl .waitRise 0 0x00010002) (ring 4 0 0 1)
/-- F6: AWL_START, and no pop. -/
theorem test_F6 : performs vF6 0x231 0x01 0b00 { vF6 with follower := onFrame .sl .waitRise 15 0x00010002 } = true := by decide
def vF7 : State := fvec true true true false (onFrame .sl .waitRise 15 0x80000001) (ring 4 0 0 0)
/-- F7: SL_WAIT_RISE, BCLK high without a rise. -/
theorem test_F7 : performs vF7 0x2A0 0x01 0b00 vF7 = true := by decide
def vF8 : State := fvec true true false false (onFrame .sl .waitRise 15 0x80000001) (ring 4 0 0 0)
/-- F8: SL_PRESENT. -/
theorem test_F8 :
    performs vF8 0x2A4 0x01 0b00 { vF8 with follower := { onFrame .sl .waitFall 15 0x80000001 with sd := true }, sync := { vF8.sync with bclkPrev := true } } = true := by decide
def vF9 : State := fvec true true true false { onFrame .sl .waitFall 15 0x80000001 with sd := true } (ring 4 0 0 0)
/-- F9: SL_WAIT_FALL. -/
theorem test_F9 : performs vF9 0x2E0 0x01 0b00 vF9 = true := by decide
def vF10 : State := fvec true false true false { onFrame .sl .waitFall 15 0x80000001 with sd := true } (ring 4 0 0 0)
/-- F10: SL_NEXT. -/
theorem test_F10 :
    performs vF10 0x2E2 0x01 0b00 { vF10 with follower := { onFrame .sl .waitRise 14 0x80000001 with sd := true }, sync := { vF10.sync with bclkPrev := false } } = true := by decide
def vF11 : State := fvec true false true false (onFrame .sl .waitFall 0 0x80000001) (ring 4 0 0 0)
/-- F11: SL_LAST. -/
theorem test_F11 :
    performs vF11 0x2E3 0x01 0b00 { vF11 with follower := onFrame .awh .waitRise 0 0x80000001, sync := { vF11.sync with bclkPrev := false } } = true := by decide
def vF12 : State := fvec true false false false (onFrame .awh .waitRise 0 0x80000001) (ring 4 0 0 0)
/-- F12: AWH_WAIT. -/
theorem test_F12 : performs vF12 0x321 0x01 0b00 vF12 = true := by decide
def vF13 : State := fvec true false false true (onFrame .awh .waitRise 0 0x80000001) (ring 4 0 0 0)
/-- F13: AWH_START. -/
theorem test_F13 : performs vF13 0x329 0x01 0b00 { vF13 with follower := onFrame .sr .waitRise 15 0x80000001 } = true := by decide
def vF14 : State := fvec true false false true (onFrame .sr .waitRise 15 0x80000001) (ring 4 0 0 0)
/-- F14: SR_WAIT_RISE. -/
theorem test_F14 : performs vF14 0x3A8 0x01 0b00 vF14 = true := by decide
def vF15 : State := fvec true true false true (onFrame .sr .waitRise 0 0x80000001) (ring 4 0 0 0)
/-- F15: SR_PRESENT. -/
theorem test_F15 :
    performs vF15 0x3AD 0x01 0b00 { vF15 with follower := { onFrame .sr .waitFall 0 0x80000001 with sd := true }, sync := { vF15.sync with bclkPrev := true } } = true := by decide
def vF16 : State := fvec true true true true { onFrame .sr .waitFall 0 0x80000001 with sd := true } (ring 4 0 0 0)
/-- F16: SR_WAIT_FALL. -/
theorem test_F16 : performs vF16 0x3E9 0x01 0b00 vF16 = true := by decide
def vF17 : State := fvec true false true true (onFrame .sr .waitFall 1 0) (ring 4 0 0 0)
/-- F17: SR_NEXT. -/
theorem test_F17 :
    performs vF17 0x3EA 0x01 0b00 { vF17 with follower := onFrame .sr .waitRise 0 0, sync := { vF17.sync with bclkPrev := false } } = true := by decide
def vF18 : State := fvec true false true true { onFrame .sr .waitFall 0 0 with framesTx := 5 } (ring 4 0 0 0)
/-- F18: SR_LAST. -/
theorem test_F18 :
    performs vF18 0x3EB 0x01 0b00 { vF18 with follower := { Follower.reset with framesTx := 6 }, sync := { vF18.sync with bclkPrev := false } } = true := by decide
def vF19 : State := fvec true false true true { onFrame .sr .waitFall 0 0 with framesTx := 0xFFFFFFFF } (ring 4 0 0 1)
/-- F19: SR_LAST, `frames_tx` wraps, and no pop. -/
theorem test_F19 :
    performs vF19 0x3FB 0x01 0b00 { vF19 with follower := Follower.reset, sync := { vF19.sync with bclkPrev := false } } = true := by decide
def vF20 : State := fvec true false false true (onFrame .sl .waitRise 7 0) (ring 4 0 0 0)
/-- F20: SL_WAIT_RISE, WS high in mid-word is ignored. -/
theorem test_F20 : performs vF20 0x2A8 0x01 0b00 vF20 = true := by decide
def vF21 : State := fvec true true false false (onFrame .awh .waitRise 0 0) (ring 4 0 0 0)
/-- F21: AWH_WAIT, a rise is ignored. -/
theorem test_F21 : performs vF21 0x325 0x01 0b00 { vF21 with sync := { vF21.sync with bclkPrev := true } } = true := by decide
def vF22 : State := fvec false false false false Follower.reset (ring 4 0 0 2)
/-- F22: F_HOLD, a stopped follower does not pop. -/
theorem test_F22 : performs vF22 0x011 0x01 0b00 vF22 = true := by decide
def vF23 : State := fvec true false false true (onFrame .awl .waitRise 0 0) (ring 4 0 0 2)
/-- F23: AWL_WAIT, no second pop. -/
theorem test_F23 : performs vF23 0x239 0x01 0b00 vF23 = true := by decide
def vP1 : State := avec 4 (ring 4 0 0 0) Assembler.reset false false 0
/-- P1: A_IDLE and FIFO_IDLE. -/
theorem test_P1 : performs vP1 0x001 0x01 0b00 vP1 = true ∧ vP1.outputs.fifoLevel = 0 ∧ vP1.outputs.starved = true := by decide
def vP2 : State := avec 4 (ring 4 2 3 1) (holding 3 0x02 0x00 0x00 0) true false 0x00
/-- P2: FIFO_PUSH, `wr_ptr` wraps. -/
theorem test_P2 :
    performs vP2 0x011 0x07 0b10 { vP2 with fifo := { mem := [(0, 0x11112222), (1, 0x33334444), (2, 0x55556666), (3, 0x00020000)], rdPtr := 2, wrPtr := 0, count := 2 }, assembler := holding 0 0x02 0x00 0x00 1 } = true := by decide
def vP3 : State := fvec true false false true Follower.reset (ring 4 3 0 1)
/-- P3: FIFO_POP, `rd_ptr` wraps. -/
theorem test_P3 :
    performs vP3 0x219 0x01 0b01 { vP3 with follower := onFrame .awl .waitRise 0 0x77778888, fifo := ring 4 0 0 0 } = true := by decide
def vP4 : State := vec 2 true false false true Follower.reset (ring 2 0 1 1) (holding 3 0xFF 0xFF 0x00 0) true false 0x80
/-- P4: FIFO_PUSHPOP. -/
theorem test_P4 :
    performs vP4 0x219 0x07 0b11 { vP4 with follower := onFrame .awl .waitRise 0 0x11112222, fifo := { mem := [(0, 0x11112222), (1, 0xFFFF8000)], rdPtr := 1, wrPtr := 0, count := 1 }, assembler := holding 0 0xFF 0xFF 0x00 1 } = true := by decide
def vP5 : State := avec 1 (ring 1 0 0 0) (holding 3 0x01 0x02 0x03 0) true false 0x04
/-- P5: A_COMPLETE with `C = 1`. -/
theorem test_P5 :
    performs vP5 0x001 0x07 0b10 { vP5 with fifo := { mem := [(0, 0x02010403)], rdPtr := 0, wrPtr := 0, count := 1 }, assembler := holding 0 0x01 0x02 0x03 1 } = true := by decide
def vP6 : State := vec 4 true false false false Follower.reset (ring 4 0 0 0) (holding 3 0xFF 0xFF 0x00 0) true false 0x80
/-- P6: AWL_STARVE in the step of a push: no bypass. -/
theorem test_P6 :
    performs vP6 0x201 0x07 0b10 { vP6 with fifo := { mem := [(0, 0xFFFF8000), (1, 0x33334444), (2, 0x55556666), (3, 0x77778888)], rdPtr := 0, wrPtr := 1, count := 1 }, assembler := holding 0 0xFF 0xFF 0x00 1 } = true := by decide
def vA1 : State := avec 4 (ring 4 0 0 0) { Assembler.reset with eosSeen := true } true false 0x55
/-- A1: A_CLOSED refuses the byte. -/
theorem test_A1 :
    performs vA1 0x001 0x15 0b00 vA1 = true ∧ vA1.outputs.inReady = false ∧ vA1.outputs.sessionDone = true := by decide
def vA2 : State := avec 4 (ring 4 0 0 0) (holding 3 0x01 0x00 0x02 3) false true 0
/-- A2: A_EOS discards three bytes. -/
theorem test_A2 :
    performs vA2 0x001 0x0B 0b00 { vA2 with assembler := { holding 0 0x01 0x00 0x02 3 with eosSeen := true } } = true ∧ vA2.outputs.sessionDone = false := by decide
def vA3 : State := avec 4 (ring 4 0 0 0) (holding 2 0x01 0x00 0x00 2) true true 0x55
/-- A3: A_EOS does not accept the byte offered with it. -/
theorem test_A3 :
    performs vA3 0x001 0x0D 0b00 { vA3 with assembler := { holding 0 0x01 0x00 0x00 2 with eosSeen := true } } = true ∧ vA3.outputs.inReady = false := by decide
def vA4 : State := avec 4 (ring 4 0 0 0) (holding 2 0 0 0 0) false false 0
/-- A4: A_IDLE. -/
theorem test_A4 : performs vA4 0x001 0x01 0b00 vA4 = true ∧ vA4.outputs.inReady = true := by decide
def vA5 : State := avec 4 (ring 4 0 0 0) (holding 1 0x01 0x00 0x00 1) true false 0x00
/-- A5: A_ACCEPT. -/
theorem test_A5 : performs vA5 0x001 0x05 0b00 { vA5 with assembler := holding 2 0x01 0x00 0x00 2 } = true := by decide
def vA6 : State := avec 4 (ring 4 0 0 0) (holding 0 0 0 0 0xFFFFFFFF) true false 0x99
/-- A6: A_ACCEPT, `bytes_rx` wraps. -/
theorem test_A6 : performs vA6 0x001 0x05 0b00 { vA6 with assembler := holding 1 0x99 0 0 0 } = true := by decide
def vA7 : State := avec 4 (ring 4 0 0 0) (holding 3 0xFF 0xFF 0x00 7) true false 0x80
/-- A7: A_COMPLETE. -/
theorem test_A7 :
    performs vA7 0x001 0x07 0b10 { vA7 with fifo := { mem := [(0, 0xFFFF8000), (1, 0x33334444), (2, 0x55556666), (3, 0x77778888)], rdPtr := 0, wrPtr := 1, count := 1 }, assembler := holding 0 0xFF 0xFF 0x00 8 } = true := by decide
def vA8 : State := avec 1 (ring 1 0 0 1) (holding 3 0x01 0x00 0x02 3) true false 0x00
/-- A8: A_STALL. -/
theorem test_A8 : performs vA8 0x011 0x06 0b00 vA8 = true ∧ vA8.outputs.inReady = false := by decide
def vA9 : State := vec 1 true false false true Follower.reset (ring 1 0 0 1) (holding 3 0x01 0x00 0x02 3) true false 0x00
/-- A9: A_STALL in a step that pops: no pass-through. -/
theorem test_A9 :
    performs vA9 0x219 0x06 0b01 { vA9 with follower := onFrame .awl .waitRise 0 0x11112222, fifo := ring 1 0 0 0 } = true := by decide
def vA11 : State := avec 4 (ring 4 0 0 0) { Assembler.reset with eosSeen := true } false true 0
/-- A11: A_CLOSED, a repeated EOS. -/
theorem test_A11 : performs vA11 0x001 0x19 0b00 vA11 = true ∧ vA11.outputs.sessionDone = true := by decide

def vR1 : State :=
  { vec 4 true true true true { onFrame .sr .waitFall 5 0xDEADBEEF with sd := true, framesTx := 9 } (ring 4 1 0 3)
      { holding 2 0x01 0x02 0x03 40 with eosSeen := true } true false 0x05 with stimulus := [0x3E05] }
/-- R-1: RESET. -/
theorem test_R1 : (vR1.fetch == .reset && match step vR1 with
    | .next u => decide (u = { State.resetWith { fifoDepth := 4, syncStages := 2 } with fifo := ring 4 0 0 0 })
    | _ => false) = true := by decide
/-- R-1: the outputs of the reset step come from the state before it. -/
theorem test_R1_outputs :
    vR1.outputs = { sd := true, inReady := false, fifoLevel := 3, starved := false, sessionDone := false,
                    framesTx := 9, bytesRx := 40 } := by decide

/-! ## Witnesses: concrete states and operands that meet the hypotheses of each statement, one for each clause -/

/-- A frame waits in the FIFO, WS low, at a frame boundary (`C = 4`). -/
def wPopLow : State := fvec true false false false Follower.reset (ring 4 3 1 2)
/-- A frame is held in AWL, WS low. -/
def wHeldLow : State := fvec true false false false (onFrame .awl .waitRise 0 0x00010002) (ring 4 0 0 0)
/-- The fourth byte arrives, an entry waits, and the follower pops (`C = 2`), WS low. -/
def wBoth : State :=
  vec 2 true false false false Follower.reset (ring 2 1 0 1) (holding 3 0xFF 0xFF 0x00 0) true false 0x80
/-- The fourth byte of a frame is offered to a full FIFO (`C = 1`, with the pointers of R58). -/
def wFull : State := avec 1 (ring 1 0 0 1) (holding 3 0x01 0x00 0x02 3) true false 0x00
/-- Transmission is complete. -/
def wDone : State := avec 4 (ring 4 2 2 0) { Assembler.reset with eosSeen := true } true true 0x55
/-- The last entry is popped after end of stream. -/
def wLastPop : State :=
  vec 4 true false false true Follower.reset (ring 4 3 0 1) { Assembler.reset with eosSeen := true } false false 0
/-- SL_LAST, with WS high in the step after it. -/
def wLeftEnd : State :=
  { fvec true false true false (onFrame .sl .waitFall 0 0x80000001) (ring 4 0 0 0) with
    sync := { bsync := [false, false], wsync := [true, false], bclkPrev := true }
    stimulus := [InputWord.pack false true false true false false 0, InputWord.pack false true true true false false 0] }
/-- SR_LAST, with WS low in the step after it and a frame waiting. -/
def wRightEnd : State :=
  { fvec true false true true (onFrame .sr .waitFall 0 0x80000001) (ring 4 3 0 1) with
    sync := { bsync := [false, false], wsync := [false, true], bclkPrev := true }
    stimulus := [InputWord.pack false true false false false false 0, InputWord.pack false true true false false false 0] }
/-- SL_LAST, with BCLK rising in the step after it. -/
def wLostRise : State :=
  { fvec true false true false (onFrame .sl .waitFall 0 0x80000001) (ring 4 0 0 0) with
    sync := { bsync := [true, false], wsync := [true, true], bclkPrev := true }
    stimulus := [InputWord.pack false true false true false false 0, InputWord.pack false true true true false false 0] }
/-- SR_LAST on an empty FIFO, a frame being pushed in that very step, with WS low in the step after it. -/
def wPushAtEnd : State :=
  { vec 4 true false true true (onFrame .sr .waitFall 0 0x80000001) (ring 4 0 0 0) (holding 3 0x01 0x00 0x02 3) true false 0x00 with
    sync := { bsync := [false, false], wsync := [false, true], bclkPrev := true }
    stimulus := [InputWord.pack false true false false true false 0, InputWord.pack false true true false false false 0] }
/-- RESET in a state with the invariant. -/
def wReset : State :=
  { vec 4 true true true true { onFrame .sr .waitFall 5 0xDEADBEEF with sd := true, framesTx := 9 } (ring 4 1 0 3)
      (holding 2 0x01 0x02 0x03 40) true false 0x05 with stimulus := [0x3E05, 0x0000] }
/-- Input vectors whose first four accept the bytes of one frame, WS high; the fifth pops it. -/
def wInputs : List InputWord := [0x1E01, 0x1600, 0x1602, 0x1600, 0x1C00, 0x1000]

/-- The invariant's clauses as one decidable statement, for concrete states. -/
theorem inv_of (s : State)
    (h : (s.params.wellFormed = true ∧ s.sync.bsync.length = s.params.syncStages ∧ s.sync.wsync.length = s.params.syncStages) ∧
      (s.follower.fsm ≠ .awl → s.follower.frameValid = true) ∧
      (s.follower.fsm = .awl ∨ s.follower.fsm = .awh → s.follower.phase = .waitRise) ∧
      (s.assembler.eosSeen = true → s.assembler.bcnt = 0) ∧
      s.fifo.rdPtr < s.params.fifoDepth ∧ s.fifo.wrPtr = (s.fifo.rdPtr + s.fifo.count) % s.params.fifoDepth ∧
      s.fifo.count ≤ s.params.fifoDepth ∧
      (∀ k, k < s.fifo.count → s.fifo.mem.written ((s.fifo.rdPtr + k) % s.params.fifoDepth) = true) ∧
      s.fifo.mem.wf s.params.fifoDepth = true) : s.Inv := by
  obtain ⟨⟨a, b, c⟩, d, e, f, g, i, j, k, l⟩ := h
  exact ⟨a, b, c, d, e, f, ⟨g, i, j, k, l⟩⟩

theorem inv_vF1 : vF1.Inv := inv_of _ (by decide)
theorem inv_vF2 : vF2.Inv := inv_of _ (by decide)
theorem inv_vF5 : vF5.Inv := inv_of _ (by decide)
theorem inv_vF7 : vF7.Inv := inv_of _ (by decide)
theorem inv_vF8 : vF8.Inv := inv_of _ (by decide)
theorem inv_vF9 : vF9.Inv := inv_of _ (by decide)
theorem inv_vF10 : vF10.Inv := inv_of _ (by decide)
theorem inv_vF11 : vF11.Inv := inv_of _ (by decide)
theorem inv_vF12 : vF12.Inv := inv_of _ (by decide)
theorem inv_vF13 : vF13.Inv := inv_of _ (by decide)
theorem inv_vF14 : vF14.Inv := inv_of _ (by decide)
theorem inv_vF15 : vF15.Inv := inv_of _ (by decide)
theorem inv_vF16 : vF16.Inv := inv_of _ (by decide)
theorem inv_vF17 : vF17.Inv := inv_of _ (by decide)
theorem inv_vF18 : vF18.Inv := inv_of _ (by decide)
theorem inv_vP1 : vP1.Inv := inv_of _ (by decide)
theorem inv_vP2 : vP2.Inv := inv_of _ (by decide)
theorem inv_vP3 : vP3.Inv := inv_of _ (by decide)
theorem inv_vP4 : vP4.Inv := inv_of _ (by decide)
theorem inv_vP6 : vP6.Inv := inv_of _ (by decide)
theorem inv_vA1 : vA1.Inv := inv_of _ (by decide)
theorem inv_vA2 : vA2.Inv := inv_of _ (by decide)
theorem inv_vA4 : vA4.Inv := inv_of _ (by decide)
theorem inv_vA5 : vA5.Inv := inv_of _ (by decide)
theorem inv_vA7 : vA7.Inv := inv_of _ (by decide)
theorem inv_wPopLow : wPopLow.Inv := inv_of _ (by decide)
theorem inv_wHeldLow : wHeldLow.Inv := inv_of _ (by decide)
theorem inv_wBoth : wBoth.Inv := inv_of _ (by decide)
theorem inv_wFull : wFull.Inv := inv_of _ (by decide)
theorem inv_wLastPop : wLastPop.Inv := inv_of _ (by decide)
theorem inv_wDone : wDone.Inv := inv_of _ (by decide)
theorem inv_wLeftEnd : wLeftEnd.Inv := inv_of _ (by decide)
theorem inv_wRightEnd : wRightEnd.Inv := inv_of _ (by decide)
theorem inv_wLostRise : wLostRise.Inv := inv_of _ (by decide)
theorem inv_wPushAtEnd : wPushAtEnd.Inv := inv_of _ (by decide)
theorem inv_wReset : wReset.Inv := inv_of _ (by decide)

theorem witness_EncodedInstructionsDecodeBack : (Instr.slPresent 0b10001).wellFormed = true ∧ Instr.aStall.wellFormed = true := by
  decide
theorem witness_DecodedBytesEncodeBack : decode .follower [0b11101011, 0b11] = .ok (.srLast 0b1010) := by rfl
theorem witness_FollowerSelectorMatchesExactlyOneRow :
    (0x286#10 &&& 0x006 = 0x006 ∧ 0x286#10 &&& (Instr.slPresent 0b00010).rowMask = (Instr.slPresent 0b00010).rowMatch ∧
      (Instr.slPresent 0b00010).format = .follower) ∧
    (0x3EB#10 &&& 0x006 ≠ 0x006) ∧
    (Instr.srLast 0b1010).format = .follower ∧ 0x3EB#10 &&& (Instr.srLast 0b1010).rowMask = (Instr.srLast 0b1010).rowMatch := by
  decide
theorem witness_AssemblerSelectorMatchesOneRowAndGivesInReady :
    (Instr.aStall.format = .assembler ∧ (0x06#5).setWidth 10 &&& Instr.aStall.rowMask = Instr.aStall.rowMatch) ∧
    (vA1.input.rst = false ∧ decodeA vA1.selA = .ok (.aClosed 0b0101)) ∧
    (vA2.input.rst = false ∧ decodeA vA2.selA = .ok (.aEos 0b011)) ∧
    (vA4.input.rst = false ∧ decodeA vA4.selA = .ok (.aIdle 0b01)) ∧
    (vA5.input.rst = false ∧ decodeA vA5.selA = .ok (.aAccept 0b1)) ∧
    (vA7.input.rst = false ∧ decodeA vA7.selA = .ok .aComplete) ∧
    (vA8.input.rst = false ∧ decodeA vA8.selA = .ok .aStall) :=
  ⟨by decide, ⟨by decide, rfl⟩, ⟨by decide, rfl⟩, ⟨by decide, rfl⟩, ⟨by decide, rfl⟩, ⟨by decide, rfl⟩, ⟨by decide, rfl⟩⟩
theorem witness_FifoSelectorIsPushAndPop :
    (vP1.Inv ∧ vP1.push = false ∧ vP1.pop = false) ∧ (vP2.Inv ∧ vP2.push = true ∧ vP2.pop = false) ∧
    (vP3.Inv ∧ vP3.push = false ∧ vP3.pop = true) ∧ (vP4.Inv ∧ vP4.push = true ∧ vP4.pop = true) :=
  ⟨⟨inv_vP1, by decide⟩, ⟨inv_vP2, by decide⟩, ⟨inv_vP3, by decide⟩, ⟨inv_vP4, by decide⟩⟩
theorem witness_EdgesAreChangesOfTheLastStage :
    (vF8.Inv ∧ vF8.rise = true ∧ vF8.fall = false) ∧ (vF10.Inv ∧ vF10.fall = true ∧ vF10.rise = false) :=
  ⟨⟨inv_vF8, by decide⟩, ⟨inv_vF10, by decide⟩⟩
theorem witness_HandshakeSignalsFollowTheirEquations : vP4.inReady = true ∧ vP4.push = true ∧ vP4.pop = true := by decide
theorem witness_StepPerformsTheDecodedGlobalOperation :
    (decode .global [BitVec.ofNat 8 vR1.selG.toNat] = .ok .reset ∧ vR1.input.rst = true) ∧
    (decode .global [BitVec.ofNat 8 vF8.selG.toNat] = .ok .step ∧ vF8.input.rst = false) ∧
    ∃ t : State, step vF8 = .next t :=
  ⟨⟨rfl, by decide⟩, ⟨rfl, by decide⟩, ⟨_, rfl⟩⟩
theorem witness_StepComposesTheDecodedOperations :
    decode .follower (layout .follower vP4.selF.toNat) = .ok (.awlPop 0b0001) ∧
    decode .assembler (layout .assembler vP4.selA.toNat) = .ok .aComplete ∧
    decode .fifo (layout .fifo vP4.selP.toNat) = .ok .fifoPushPop ∧
    ∃ tf tq ta : State, exec (.awlPop 0b0001) vP4 = .next tf ∧ exec .fifoPushPop vP4 = .next tq ∧ exec .aComplete vP4 = .next ta :=
  ⟨rfl, rfl, rfl, _, _, _, rfl, rfl, rfl⟩
theorem witness_OperationsWriteOnlyTheirOwnRegisters :
    (∃ t : State, exec (.slPresent 0) vF8 = .next t ∧ (Instr.slPresent 0).format = .follower) ∧
    (∃ t : State, exec .fifoPush vP2 = .next t ∧ Instr.fifoPush.format = .fifo) ∧
    (∃ t : State, exec .aComplete vA7 = .next t ∧ Instr.aComplete.format = .assembler) :=
  ⟨⟨_, rfl, rfl⟩, ⟨_, rfl, rfl⟩, ⟨_, rfl, rfl⟩⟩
theorem witness_PopOperationsLoadTheHead :
    (vP3.fifo.rdPtr < vP3.params.fifoDepth ∧ vP3.fifo.rdPtr = 3 ∧
      ∃ t u : State, exec (.awlPop 0) vP3 = .next t ∧ exec (.awlPopStart 0) vP3 = .next u) ∧
    ({ vP3 with fifo := ring 4 4 0 1 } : State).params.fifoDepth ≤ ({ vP3 with fifo := ring 4 4 0 1 } : State).fifo.rdPtr :=
  ⟨⟨by decide, rfl, _, _, rfl, rfl⟩, by decide⟩
theorem witness_FifoOperationsMoveThePointers :
    (vP2.fifo.wrPtr < vP2.params.fifoDepth ∧ vP2.fifo.wrPtr = 3 ∧
      ∃ t u : State, exec .fifoPush vP2 = .next t ∧ exec .fifoPushPop vP2 = .next u) ∧
    ({ vP2 with fifo := ring 4 2 4 1 } : State).params.fifoDepth ≤ ({ vP2 with fifo := ring 4 2 4 1 } : State).fifo.wrPtr :=
  ⟨⟨by decide, rfl, _, _, rfl, rfl⟩, by decide⟩
theorem witness_AssemblerOperationsPackBytes : vA6.assembler.bcnt = 0 ∧ vA5.assembler.bcnt = 1 ∧ vA4.assembler.bcnt = 2 := by
  decide
theorem witness_ResetLoadsEveryResetValue : vR1.input.rst = true := by decide
theorem witness_StoppedFollowerIsFrozen : vF1.Inv ∧ vF1.input.rst = false ∧ vF1.input.run = false ∧ vF1.rise = true :=
  ⟨inv_vF1, by decide⟩
theorem witness_StarvedFollowerWaits :
    (vF2.Inv ∧ vF2.input.rst = false ∧ vF2.input.run = true ∧ vF2.follower.fsm = .awl ∧ vF2.follower.frameValid = false ∧
      vF2.fifo.count = 0 ∧ vF2.push = false) ∧
    (vP6.Inv ∧ vP6.input.rst = false ∧ vP6.input.run = true ∧ vP6.follower.fsm = .awl ∧ vP6.follower.frameValid = false ∧
      vP6.fifo.count = 0 ∧ vP6.push = true) :=
  ⟨⟨inv_vF2, by decide⟩, ⟨inv_vP6, by decide⟩⟩
theorem witness_FrameIsPoppedAtTheBoundary :
    (vP3.Inv ∧ vP3.input.rst = false ∧ vP3.input.run = true ∧ vP3.follower.fsm = .awl ∧ vP3.follower.frameValid = false ∧
      vP3.fifo.count ≠ 0 ∧ vP3.push = false ∧ vP3.wsS = true) ∧
    (vP4.Inv ∧ vP4.input.rst = false ∧ vP4.input.run = true ∧ vP4.follower.fsm = .awl ∧ vP4.follower.frameValid = false ∧
      vP4.fifo.count ≠ 0 ∧ vP4.push = true ∧ vP4.wsS = true) ∧
    (wPopLow.Inv ∧ wPopLow.input.rst = false ∧ wPopLow.input.run = true ∧ wPopLow.follower.fsm = .awl ∧
      wPopLow.follower.frameValid = false ∧ wPopLow.fifo.count ≠ 0 ∧ wPopLow.push = false ∧ wPopLow.wsS = false) ∧
    (wBoth.Inv ∧ wBoth.input.rst = false ∧ wBoth.input.run = true ∧ wBoth.follower.fsm = .awl ∧
      wBoth.follower.frameValid = false ∧ wBoth.fifo.count ≠ 0 ∧ wBoth.push = true ∧ wBoth.wsS = false) :=
  ⟨⟨inv_vP3, by decide⟩, ⟨inv_vP4, by decide⟩, ⟨inv_wPopLow, by decide⟩, ⟨inv_wBoth, by decide⟩⟩
theorem witness_HeldFrameWaitsForWsLow :
    (vF5.Inv ∧ vF5.input.rst = false ∧ vF5.input.run = true ∧ vF5.follower.fsm = .awl ∧ vF5.follower.frameValid = true ∧
      vF5.wsS = true) ∧
    (wHeldLow.Inv ∧ wHeldLow.input.rst = false ∧ wHeldLow.input.run = true ∧ wHeldLow.follower.fsm = .awl ∧
      wHeldLow.follower.frameValid = true ∧ wHeldLow.wsS = false) :=
  ⟨⟨inv_vF5, by decide⟩, ⟨inv_wHeldLow, by decide⟩⟩
theorem witness_LeftChannelShiftsOnEdges :
    (vF7.Inv ∧ vF7.input.rst = false ∧ vF7.input.run = true ∧ vF7.follower.fsm = .sl ∧ vF7.follower.phase = .waitRise ∧
      vF7.rise = false) ∧
    (vF8.Inv ∧ vF8.input.rst = false ∧ vF8.input.run = true ∧ vF8.follower.fsm = .sl ∧ vF8.follower.phase = .waitRise ∧
      vF8.rise = true) ∧
    (vF9.Inv ∧ vF9.input.rst = false ∧ vF9.input.run = true ∧ vF9.follower.fsm = .sl ∧ vF9.follower.phase = .waitFall ∧
      vF9.fall = false) ∧
    (vF10.Inv ∧ vF10.input.rst = false ∧ vF10.input.run = true ∧ vF10.follower.fsm = .sl ∧ vF10.follower.phase = .waitFall ∧
      vF10.fall = true ∧ vF10.follower.idx ≠ 0) ∧
    (vF11.Inv ∧ vF11.input.rst = false ∧ vF11.input.run = true ∧ vF11.follower.fsm = .sl ∧ vF11.follower.phase = .waitFall ∧
      vF11.fall = true ∧ vF11.follower.idx = 0) :=
  ⟨⟨inv_vF7, by decide⟩, ⟨inv_vF8, by decide⟩, ⟨inv_vF9, by decide⟩, ⟨inv_vF10, by decide⟩, ⟨inv_vF11, by decide⟩⟩
theorem witness_RightChannelWaitsForWsHigh :
    (vF12.Inv ∧ vF12.input.rst = false ∧ vF12.input.run = true ∧ vF12.follower.fsm = .awh ∧ vF12.wsS = false) ∧
    (vF13.Inv ∧ vF13.input.rst = false ∧ vF13.input.run = true ∧ vF13.follower.fsm = .awh ∧ vF13.wsS = true) :=
  ⟨⟨inv_vF12, by decide⟩, ⟨inv_vF13, by decide⟩⟩
theorem witness_RightChannelShiftsOnEdges :
    (vF14.Inv ∧ vF14.input.rst = false ∧ vF14.input.run = true ∧ vF14.follower.fsm = .sr ∧ vF14.follower.phase = .waitRise ∧
      vF14.rise = false) ∧
    (vF15.Inv ∧ vF15.input.rst = false ∧ vF15.input.run = true ∧ vF15.follower.fsm = .sr ∧ vF15.follower.phase = .waitRise ∧
      vF15.rise = true) ∧
    (vF16.Inv ∧ vF16.input.rst = false ∧ vF16.input.run = true ∧ vF16.follower.fsm = .sr ∧ vF16.follower.phase = .waitFall ∧
      vF16.fall = false) ∧
    (vF17.Inv ∧ vF17.input.rst = false ∧ vF17.input.run = true ∧ vF17.follower.fsm = .sr ∧ vF17.follower.phase = .waitFall ∧
      vF17.fall = true ∧ vF17.follower.idx ≠ 0) ∧
    (vF18.Inv ∧ vF18.input.rst = false ∧ vF18.input.run = true ∧ vF18.follower.fsm = .sr ∧ vF18.follower.phase = .waitFall ∧
      vF18.fall = true ∧ vF18.follower.idx = 0) :=
  ⟨⟨inv_vF14, by decide⟩, ⟨inv_vF15, by decide⟩, ⟨inv_vF16, by decide⟩, ⟨inv_vF17, by decide⟩, ⟨inv_vF18, by decide⟩⟩
theorem witness_PushAndPopUpdateTheRingBuffer :
    (vP1.Inv ∧ vP1.input.rst = false ∧ vP1.push = false ∧ vP1.pop = false) ∧
    (vP2.Inv ∧ vP2.input.rst = false ∧ vP2.push = true ∧ vP2.pop = false) ∧
    (vP3.Inv ∧ vP3.input.rst = false ∧ vP3.push = false ∧ vP3.pop = true) ∧
    (vP4.Inv ∧ vP4.input.rst = false ∧ vP4.push = true ∧ vP4.pop = true) ∧
    (wLastPop.Inv ∧ wLastPop.input.rst = false ∧ wLastPop.push = false ∧ wLastPop.pop = true ∧
      wLastPop.assembler.eosSeen = true ∧ wLastPop.fifo.count = 1) :=
  ⟨⟨inv_vP1, by decide⟩, ⟨inv_vP2, by decide⟩, ⟨inv_vP3, by decide⟩, ⟨inv_vP4, by decide⟩, ⟨inv_wLastPop, by decide⟩⟩
theorem witness_EndOfStreamClosesTheBytePort :
    (vA1.Inv ∧ vA1.input.rst = false ∧ vA1.assembler.eosSeen = true) ∧
    (vA2.Inv ∧ vA2.input.rst = false ∧ vA2.assembler.eosSeen = false ∧ vA2.input.inEos = true) :=
  ⟨⟨inv_vA1, by decide⟩, ⟨inv_vA2, by decide⟩⟩
theorem witness_OpenBytePortPacksFrames :
    (vA4.Inv ∧ vA4.input.rst = false ∧ vA4.assembler.eosSeen = false ∧ vA4.input.inEos = false ∧ vA4.input.inValid = false) ∧
    (vA5.Inv ∧ vA5.input.rst = false ∧ vA5.assembler.eosSeen = false ∧ vA5.input.inEos = false ∧ vA5.input.inValid = true ∧
      vA5.assembler.bcnt ≠ 3) ∧
    (vA7.Inv ∧ vA7.input.rst = false ∧ vA7.assembler.eosSeen = false ∧ vA7.input.inEos = false ∧ vA7.input.inValid = true ∧
      vA7.assembler.bcnt = 3 ∧ vA7.fifo.count ≠ vA7.params.fifoDepth) ∧
    (wFull.Inv ∧ wFull.input.rst = false ∧ wFull.assembler.eosSeen = false ∧ wFull.input.inEos = false ∧
      wFull.input.inValid = true ∧ wFull.assembler.bcnt = 3 ∧ wFull.fifo.count = wFull.params.fifoDepth) :=
  ⟨⟨inv_vA4, by decide⟩, ⟨inv_vA5, by decide⟩, ⟨inv_vA7, by decide⟩, ⟨inv_wFull, by decide⟩⟩
theorem witness_SelectorDrivenStepEqualsTheStateMachine :
    vP4.input.rst = false ∧ vP4.fifo.rdPtr < vP4.params.fifoDepth ∧ vP4.fifo.wrPtr < vP4.params.fifoDepth := by decide
theorem witness_ResetStateMeetsTheInvariant :
    (Params.mk 1 1).wellFormed = true ∧ Params.sample.wellFormed = true := by decide
theorem witness_EveryStepKeepsTheInvariant : vP4.Inv ∧ ∃ t : State, step vP4 = .next t := ⟨inv_vP4, _, rfl⟩
theorem witness_StepsKeepTheParameters : ∃ t : State, step vF8 = .next t := ⟨_, rfl⟩
theorem witness_InvariantStatesAlwaysStep : vP4.Inv ∧ wReset.Inv := ⟨inv_vP4, inv_wReset⟩
theorem witness_NoReachableStateStops : (Params.mk 1 1).wellFormed = true := by decide
theorem witness_RingBufferIsAQueue :
    (vP2.Inv ∧ vP2.input.rst = false ∧ vP2.pop = false ∧ vP2.push = true) ∧
    (vP4.Inv ∧ vP4.input.rst = false ∧ vP4.pop = true ∧ vP4.push = true) :=
  ⟨⟨inv_vP2, by decide⟩, ⟨inv_vP4, by decide⟩⟩
theorem witness_SlotsAreWrittenOnlyByAPush :
    (∃ t : State, step vP2 = .next t) ∧ ¬(vP2.push = true ∧ 2 = vP2.fifo.wrPtr) := ⟨⟨_, rfl⟩, by decide⟩
theorem witness_UnacceptedByteHasNoEffect :
    (wFull.withInput (.pack false false false false true false 0x00)).accept = false := by decide

/-! The run statements: the five steps after reset take one frame's bytes, push it and pop it. -/

/-- The premises of the run statements, and each of their records is more than empty. -/
theorem witness_run :
    (Params.mk 1 1).wellFormed = true ∧ noReset wInputs = true ∧ 5 ≤ wInputs.length ∧
    (∃ t : State, runFor 5 (freshWith { fifoDepth := 1, syncStages := 1 } wInputs) = .next t ∧
      t.follower.frameValid = true ∧ t.assembler.eosSeen = false) ∧
    record State.pushedNow 5 (freshWith { fifoDepth := 1, syncStages := 1 } wInputs) = [0x00010002] ∧
    record State.poppedNow 5 (freshWith { fifoDepth := 1, syncStages := 1 } wInputs) = [0x00010002] ∧
    record State.acceptedNow 5 (freshWith { fifoDepth := 1, syncStages := 1 } wInputs) = [0x01, 0x00, 0x02, 0x00] :=
  ⟨by decide, by decide, by decide, ⟨_, rfl, rfl, rfl⟩, by decide, by decide, by decide⟩
theorem witness_PoppedFramesArePushedFramesInOrder :
    (Params.mk 1 1).wellFormed = true ∧ noReset wInputs = true ∧ 5 ≤ wInputs.length ∧
    ∃ t : State, runFor 5 (freshWith { fifoDepth := 1, syncStages := 1 } wInputs) = .next t :=
  ⟨by decide, by decide, by decide, _, rfl⟩
theorem witness_PushedFramesAreTheAcceptedBytes :
    (Params.mk 1 1).wellFormed = true ∧ noReset wInputs = true ∧ 3 ≤ wInputs.length ∧
    (∃ t : State, runFor 3 (freshWith { fifoDepth := 1, syncStages := 1 } wInputs) = .next t ∧ t.assembler.eosSeen = false ∧
      2 < t.assembler.bcnt.toNat) ∧
    noReset [0x1601, 0x1500] = true ∧
    ∃ t : State, runFor 2 (freshWith { fifoDepth := 1, syncStages := 1 } [0x1601, 0x1500]) = .next t ∧ t.assembler.eosSeen = true :=
  ⟨by decide, by decide, by decide, ⟨_, rfl, rfl, by decide⟩, by decide, _, rfl, rfl⟩
theorem witness_PresentedBitsAreThePoppedFramesBits :
    (Params.mk 1 1).wellFormed = true ∧ noReset wInputs = true ∧ 6 ≤ wInputs.length ∧
    ∃ t : State, runFor 6 (freshWith { fifoDepth := 1, syncStages := 1 } wInputs) = .next t ∧ t.bitsLeft = 32 :=
  ⟨by decide, by decide, by decide, _, rfl, rfl⟩
theorem witness_BytesReachTheWireInOrder :
    (Params.mk 1 1).wellFormed = true ∧ noReset wInputs = true ∧ 6 ≤ wInputs.length := by decide
theorem witness_PoppedFramesAreSentOrHeld :
    (Params.mk 1 1).wellFormed = true ∧ noReset wInputs = true ∧ 5 ≤ wInputs.length ∧
    ∃ t : State, runFor 5 (freshWith { fifoDepth := 1, syncStages := 1 } wInputs) = .next t ∧ t.follower.frameValid = true :=
  ⟨by decide, by decide, by decide, _, rfl, rfl⟩
theorem witness_PinReachesTheLogicAfterNSteps :
    ((Params.mk 1 1).wellFormed = true ∧ noReset wInputs = true ∧ 0 ≤ wInputs.length ∧ 0 < (Params.mk 1 1).syncStages ∧
      ∃ t : State, runFor 0 (freshWith { fifoDepth := 1, syncStages := 1 } wInputs) = .next t) ∧
    (1 ≤ wInputs.length ∧ (Params.mk 1 1).syncStages ≤ 1 ∧ wInputs[1 - (Params.mk 1 1).syncStages]? = some 0x1E01 ∧
      ∃ t : State, runFor 1 (freshWith { fifoDepth := 1, syncStages := 1 } wInputs) = .next t ∧ t.bclkS = true) :=
  ⟨⟨by decide, by decide, by decide, by decide, _, rfl⟩, by decide, by decide, rfl, _, rfl, rfl⟩

theorem witness_SerialDataIsWrittenOnlyWhenPresented :
    (vF8.Inv ∧ vF8.input.rst = false ∧ vF8.presentStep = true) ∧ (vF7.Inv ∧ vF7.input.rst = false ∧ vF7.presentStep = false) ∧
    (wReset.Inv ∧ wReset.input.rst = true ∧ wReset.follower.sd = true) :=
  ⟨⟨inv_vF8, by decide⟩, ⟨inv_vF7, by decide⟩, ⟨inv_wReset, by decide⟩⟩
theorem witness_FrameIsHeldFromItsPopToItsLastBit :
    (vP3.Inv ∧ vP3.input.rst = false ∧ vP3.pop = true) ∧
    (vF8.Inv ∧ vF8.input.rst = false ∧ vF8.pop = false ∧ ¬(vF8.wordEnd = true ∧ vF8.follower.fsm = .sr)) ∧
    (vF18.Inv ∧ vF18.input.rst = false ∧ vF18.pop = false ∧ vF18.wordEnd = true ∧ vF18.follower.fsm = .sr) ∧
    (wReset.Inv ∧ wReset.input.rst = true) :=
  ⟨⟨inv_vP3, by decide⟩, ⟨inv_vF8, by decide⟩, ⟨inv_vF18, by decide⟩, ⟨inv_wReset, by decide⟩⟩
theorem witness_CountersCountFramesAndBytes :
    (vF18.Inv ∧ vF18.input.rst = false ∧ vF18.wordEnd = true ∧ vF18.follower.fsm = .sr ∧ vF18.accept = false) ∧
    (vA7.Inv ∧ vA7.input.rst = false ∧ ¬(vA7.wordEnd = true ∧ vA7.follower.fsm = .sr) ∧ vA7.accept = true) ∧
    (wReset.Inv ∧ wReset.input.rst = true) :=
  ⟨⟨inv_vF18, by decide⟩, ⟨inv_vA7, by decide⟩, ⟨inv_wReset, by decide⟩⟩
theorem witness_SynchroniserShiftsEveryStep :
    (vF2.Inv ∧ vF2.input.rst = false ∧ 0 + 1 < vF2.params.syncStages) ∧
    (wReset.Inv ∧ wReset.input.rst = true ∧ 1 < wReset.params.syncStages) :=
  ⟨⟨inv_vF2, by decide⟩, ⟨inv_wReset, by decide⟩⟩
theorem witness_OutputsAfterAReset :
    wReset.input.rst = true ∧ ∃ t : State, step wReset = .next t ∧ t.input.rst = false ∧ t.input.inEos = false :=
  ⟨by decide, _, rfl, by decide, by decide⟩
theorem witness_EndOfStreamIsSticky :
    (vA1.Inv ∧ vA1.input.rst = false ∧ vA1.assembler.eosSeen = true) ∧ (vA2.Inv ∧ vA2.input.rst = false ∧ vA2.input.inEos = true) ∧
    (wReset.Inv ∧ wReset.input.rst = true) :=
  ⟨⟨inv_vA1, by decide⟩, ⟨inv_vA2, by decide⟩, ⟨inv_wReset, by decide⟩⟩
theorem witness_CompletedTransmissionStaysComplete : wDone.Inv ∧ wDone.input.rst = false ∧ wDone.txComplete = true :=
  ⟨inv_wDone, by decide⟩
/-- The two states differ in the byte port and the assembler; then in the follower and the pins. -/
theorem witness_OnlyTheFifoCouplesTheSubBlocks :
    (vP1.Inv ∧ vA5.Inv ∧ vP1.params = vA5.params ∧ vP1.input.rst = false ∧ vA5.input.rst = false ∧
      vP1.follower = vA5.follower ∧ vP1.sync = vA5.sync ∧ vP1.fifo = vA5.fifo ∧ vP1.input.run = vA5.input.run) ∧
    (vF8.Inv ∧ vF12.Inv ∧ vF8.params = vF12.params ∧ vF8.input.rst = false ∧ vF12.input.rst = false ∧
      vF8.assembler = vF12.assembler ∧ vF8.fifo.count = vF12.fifo.count ∧ vF8.input.inValid = vF12.input.inValid ∧
      vF8.input.inEos = vF12.input.inEos ∧ vF8.input.inByte = vF12.input.inByte) :=
  ⟨⟨inv_vP1, inv_vA5, by decide⟩, ⟨inv_vF8, inv_vF12, by decide⟩⟩
/-- SL with WS high where it was low; AWH with BCLK high where it was low. -/
theorem witness_FollowerReadsOnlyWhatItsStateWaitsFor :
    (vF8.Inv ∧ ({ vF8 with sync := { vF8.sync with wsync := [true, true] } } : State).Inv ∧ vF8.input.rst = false ∧
      vF8.shifting = true) ∧
    (vF12.Inv ∧ ({ vF12 with sync := { vF12.sync with bsync := [true, true] } } : State).Inv ∧ vF12.input.rst = false ∧
      vF12.shifting = false) :=
  ⟨⟨inv_vF8, inv_of _ (by decide), by decide⟩, ⟨inv_vF12, inv_of _ (by decide), by decide⟩⟩
theorem witness_RiseRightAfterAWordEndIsLost :
    vF11.Inv ∧ vF11.wordEnd = true ∧ wLeftEnd.Inv ∧ wLeftEnd.wordEnd = true ∧
    (∃ t : State, step wLeftEnd = .next t ∧ t.input.rst = false) ∧
    wLostRise.Inv ∧ wLostRise.wordEnd = true ∧ ∃ t : State, step wLostRise = .next t ∧ t.rise = true ∧ t.input.rst = false :=
  ⟨inv_vF11, by decide, inv_wLeftEnd, by decide, ⟨_, rfl, by decide⟩, inv_wLostRise, by decide, _, rfl, by decide, by decide⟩
theorem witness_RightChannelIsReadyTwoStepsAfterTheLeft :
    wLeftEnd.Inv ∧ wLeftEnd.wordEnd = true ∧ wLeftEnd.follower.fsm = .sl ∧
    ∃ t : State, step wLeftEnd = .next t ∧ t.input.rst = false ∧ t.input.run = true ∧ t.wsS = true :=
  ⟨inv_wLeftEnd, by decide, by decide, _, rfl, by decide, by decide, by decide⟩
theorem witness_LeftChannelIsReadyTwoStepsAfterTheRight :
    (wRightEnd.Inv ∧ wRightEnd.wordEnd = true ∧ wRightEnd.follower.fsm = .sr ∧
      ∃ t : State, step wRightEnd = .next t ∧ t.input.rst = false ∧ t.input.run = true ∧ t.wsS = false ∧ t.fifo.count ≠ 0) ∧
    (wPushAtEnd.Inv ∧ wPushAtEnd.wordEnd = true ∧ wPushAtEnd.follower.fsm = .sr ∧ wPushAtEnd.fifo.count = 0 ∧
      ∃ t : State, step wPushAtEnd = .next t ∧ t.input.rst = false ∧ t.input.run = true ∧ t.wsS = false ∧ t.fifo.count ≠ 0) :=
  ⟨⟨inv_wRightEnd, by decide, by decide, _, rfl, by decide, by decide, by decide, by decide⟩,
    ⟨inv_wPushAtEnd, by decide, by decide, by decide, _, rfl, by decide, by decide, by decide, by decide⟩⟩

end Sys2Proof.Tests
end

/-! SUPPORT. What one step does to the registers, said once: the selector-driven step of a state with the invariant takes each
register from the description by states and conditions (Sys2Proof/Machine/Reference.lean), and a follower step is one of four kinds. -/

namespace Sys2Proof.Machine

/-! ## The signals of a step, as conditions (R19, R53, R248) -/

namespace State

variable {s : State}

theorem inReady_iff : s.inReady = true ↔ s.input.rst = false ∧ s.assembler.eosSeen = false ∧ s.input.inEos = false ∧
    (s.assembler.bcnt ≠ 3 ∨ s.fifo.count ≠ s.params.fifoDepth) := by
  simp [inReady, bcnt3, fifoNf, and_assoc]

theorem accept_iff : s.accept = true ↔ s.input.inValid = true ∧ s.inReady = true := by
  simp [accept]

theorem push_iff : s.push = true ↔ s.accept = true ∧ s.assembler.bcnt = 3 := by
  simp [push, bcnt3]

theorem pop_iff : s.pop = true ↔ s.input.rst = false ∧ s.input.run = true ∧ s.follower.fsm = .awl ∧
    s.follower.frameValid = false ∧ s.fifo.count ≠ 0 := by
  simp [pop, fifoNe, and_assoc]

/-- The fourth byte of a frame is accepted only where the FIFO has room (R53). -/
theorem fifo_not_full_of_push (h : s.push = true) : s.fifo.count ≠ s.params.fifoDepth := by
  obtain ⟨haccept, hbcnt⟩ := push_iff.mp h
  obtain ⟨-, -, -, hroom⟩ := inReady_iff.mp (accept_iff.mp haccept).2
  exact hroom.resolve_left (not_not_intro hbcnt)

theorem fifo_not_empty_of_pop (h : s.pop = true) : s.fifo.count ≠ 0 := by
  obtain ⟨-, -, -, -, hne⟩ := pop_iff.mp h
  exact hne

/-- The byte port is closed once end of stream was seen (R47, R53). -/
theorem inReady_of_eosSeen (h : s.assembler.eosSeen = true) : s.inReady = false := by
  simp [inReady, h]

theorem presentStep_iff : s.presentStep = true ↔ s.input.rst = false ∧ s.input.run = true ∧
    (s.follower.fsm = .sl ∨ s.follower.fsm = .sr) ∧ s.follower.phase = .waitRise ∧ s.rise = true := by
  simp [presentStep, shifting, and_assoc]

theorem wordEnd_iff : s.wordEnd = true ↔ s.input.rst = false ∧ s.input.run = true ∧
    (s.follower.fsm = .sl ∨ s.follower.fsm = .sr) ∧ s.follower.phase = .waitFall ∧ s.fall = true ∧ s.idxZero = true := by
  simp [wordEnd, shifting, and_assoc]

/-! A pop waits in AwaitWordSelectLow, a present step for the rise of BCLK and a word end for its fall: no two happen in one step. -/

theorem presentStep_eq_false_of_pop (h : s.pop = true) : s.presentStep = false := by
  obtain ⟨-, -, hfsm, -⟩ := pop_iff.mp h
  simp [presentStep, shifting, hfsm]

theorem wordEnd_eq_false_of_pop (h : s.pop = true) : s.wordEnd = false := by
  obtain ⟨-, -, hfsm, -⟩ := pop_iff.mp h
  simp [wordEnd, shifting, hfsm]

theorem presentStep_eq_false_of_wordEnd (h : s.wordEnd = true) : s.presentStep = false := by
  obtain ⟨-, -, -, hphase, -⟩ := wordEnd_iff.mp h
  simp [presentStep, hphase]

theorem pop_eq_false_of_presentStep (h : s.presentStep = true) : s.pop = false :=
  Bool.eq_false_iff.mpr fun hpop => by simp [presentStep_eq_false_of_pop hpop] at h

theorem pop_eq_false_of_wordEnd (h : s.wordEnd = true) : s.pop = false :=
  Bool.eq_false_iff.mpr fun hpop => by simp [wordEnd_eq_false_of_pop hpop] at h

theorem wordEnd_eq_false_of_presentStep (h : s.presentStep = true) : s.wordEnd = false :=
  Bool.eq_false_iff.mpr fun hend => by simp [presentStep_eq_false_of_wordEnd hend] at h

theorem starved_iff : s.starved = true ↔ s.follower.fsm = .awl ∧ s.follower.frameValid = false ∧ s.fifo.count = 0 := by
  simp [starved, and_assoc]

theorem sessionDone_iff : s.sessionDone = true ↔ s.assembler.eosSeen = true ∧ s.fifo.count = 0 := by
  simp [sessionDone]

end State

/-! ## The reference description, one equation per state of the follower (R130) and per branch of the assembler -/

namespace Reference

variable {s : State} (w : FrameWord)

theorem follower_of_not_run (hrun : s.input.run = false) : follower s w = s.follower := by
  simp [follower, hrun]

theorem follower_of_awl_held (hrun : s.input.run = true) (hfsm : s.follower.fsm = .awl)
    (hfv : s.follower.frameValid = true) :
    follower s w = if s.wsS then s.follower else s.follower.startChannel .sl := by
  simp [follower, hrun, hfsm, hfv, Follower.startChannel]

theorem follower_of_awl_starved (hrun : s.input.run = true) (hfsm : s.follower.fsm = .awl)
    (hfv : s.follower.frameValid = false) (hne : s.fifoNe = false) : follower s w = s.follower := by
  have hcount : s.fifo.count = 0 := by simpa [State.fifoNe] using hne
  simp [follower, hrun, hfsm, hfv, hcount]

theorem follower_of_awl_pop (hrun : s.input.run = true) (hfsm : s.follower.fsm = .awl)
    (hfv : s.follower.frameValid = false) (hne : s.fifoNe = true) :
    follower s w = if s.wsS then s.follower.load w else (s.follower.load w).startChannel .sl := by
  have hcount : s.fifo.count ≠ 0 := by simpa [State.fifoNe] using hne
  simp [follower, hrun, hfsm, hfv, hcount, Follower.startChannel, Follower.load]

theorem follower_of_awh (hrun : s.input.run = true) (hfsm : s.follower.fsm = .awh) :
    follower s w = if s.wsS then s.follower.startChannel .sr else s.follower := by
  simp [follower, hrun, hfsm, Follower.startChannel]

theorem follower_of_sl_waitRise (hrun : s.input.run = true) (hfsm : s.follower.fsm = .sl)
    (hphase : s.follower.phase = .waitRise) :
    follower s w = if s.rise then s.follower.present s.leftBit else s.follower := by
  simp [follower, hrun, hfsm, hphase, Follower.present, State.leftBit]

theorem follower_of_sl_waitFall (hrun : s.input.run = true) (hfsm : s.follower.fsm = .sl)
    (hphase : s.follower.phase = .waitFall) :
    follower s w = if s.fall then (if s.idxZero then s.follower.leaveWord .awh else s.follower.nextBit)
      else s.follower := by
  simp [follower, hrun, hfsm, hphase, Follower.leaveWord, Follower.nextBit, State.idxZero]

theorem follower_of_sr_waitRise (hrun : s.input.run = true) (hfsm : s.follower.fsm = .sr)
    (hphase : s.follower.phase = .waitRise) :
    follower s w = if s.rise then s.follower.present s.rightBit else s.follower := by
  simp [follower, hrun, hfsm, hphase, Follower.present, State.rightBit]

theorem follower_of_sr_waitFall (hrun : s.input.run = true) (hfsm : s.follower.fsm = .sr)
    (hphase : s.follower.phase = .waitFall) :
    follower s w = if s.fall then (if s.idxZero then (s.follower.leaveWord .awl).frameDone else s.follower.nextBit)
      else s.follower := by
  simp [follower, hrun, hfsm, hphase, Follower.leaveWord, Follower.frameDone, Follower.nextBit, State.idxZero]

theorem assembler_of_eosSeen (hes : s.assembler.eosSeen = true) : assembler s = s.assembler := by
  simp [assembler, hes]

theorem assembler_of_inEos (hes : s.assembler.eosSeen = false) (heo : s.input.inEos = true) :
    assembler s = { s.assembler with eosSeen := true, bcnt := 0 } := by
  simp [assembler, hes, heo]

theorem assembler_of_not_accept (heo : s.input.inEos = false) (hacc : s.accept = false) :
    assembler s = s.assembler := by
  simp [assembler, heo, hacc]

theorem assembler_of_accept (hacc : s.accept = true) :
    assembler s = if s.bcnt3 then { s.assembler.countByte with bcnt := 0 }
      else { s.assembler.countByte with
        carry := s.assembler.carry.set s.assembler.bcnt s.input.inByte
        bcnt := s.assembler.bcnt + 1 } := by
  obtain ⟨-, hes, heo, -⟩ := State.inReady_iff.mp (State.accept_iff.mp hacc).2
  simp [assembler, hes, heo, hacc, State.bcnt3, Assembler.countByte]

/-- `eos_seen` is set by `in_eos` and never cleared within a session (R47, R193). -/
theorem assembler_eosSeen : (assembler s).eosSeen = (s.assembler.eosSeen || s.input.inEos) := by
  cases hes : s.assembler.eosSeen
  case true => simp [assembler_of_eosSeen hes, hes]
  case false =>
  cases heo : s.input.inEos
  case true => simp [assembler_of_inEos hes heo]
  case false =>
  cases hacc : s.accept
  case false => simp [assembler_of_not_accept heo hacc, hes]
  case true =>
    rw [assembler_of_accept hacc]
    cases s.bcnt3 <;> simp [hes]

/-- `bytes_rx` counts what is accepted (R48, R195, R196). -/
theorem assembler_bytesRx :
    (assembler s).bytesRx = if s.accept then s.assembler.bytesRx + 1 else s.assembler.bytesRx := by
  cases hacc : s.accept
  case true =>
    rw [assembler_of_accept hacc]
    cases s.bcnt3 <;> rfl
  case false =>
  cases hes : s.assembler.eosSeen
  case true => rw [assembler_of_eosSeen hes]; rfl
  case false =>
  cases heo : s.input.inEos
  case true => rw [assembler_of_inEos hes heo]; rfl
  case false => rw [assembler_of_not_accept heo hacc]; rfl

/-! What a follower step does to `frame`, `frame_valid`, `sd` and `frames_tx`: it pops (R135, R136), presents a bit (R140, R147), ends a
right word (R150), or leaves the four registers alone. -/

/-- The four kinds of follower step, `w` being the head of the FIFO and `f` the follower's next registers. -/
inductive FollowerEvent (s : State) (w : FrameWord) (f : Follower) : Prop
  | popped (hpop : s.pop = true) (hframe : f.frame = w) (hvalid : f.frameValid = true)
      (hsd : f.sd = s.follower.sd) (htx : f.framesTx = s.follower.framesTx)
  | presented (hpresent : s.presentStep = true) (hf : f = s.follower.present s.presentBit)
  | rightWordEnded (hend : s.wordEnd = true) (hfsm : s.follower.fsm = .sr)
      (hf : f = (s.follower.leaveWord .awl).frameDone)
  | kept (hpop : s.pop = false) (hpresent : s.presentStep = false) (hend : ¬(s.wordEnd = true ∧ s.follower.fsm = .sr))
      (hframe : f.frame = s.follower.frame) (hvalid : f.frameValid = s.follower.frameValid)
      (hsd : f.sd = s.follower.sd) (htx : f.framesTx = s.follower.framesTx)

theorem follower_event_awl (hrst : s.input.rst = false) (hrun : s.input.run = true) (hfsm : s.follower.fsm = .awl) :
    FollowerEvent s w (follower s w) := by
  have hpresent : s.presentStep = false := by simp [State.presentStep, State.shifting, hfsm]
  have hend : ¬(s.wordEnd = true ∧ s.follower.fsm = .sr) := by simp [hfsm]
  cases hfv : s.follower.frameValid
  case false =>
    cases hne : s.fifoNe
    case false =>
      have hpop : s.pop = false := by simp [State.pop, hne]
      rw [follower_of_awl_starved w hrun hfsm hfv hne]
      exact .kept hpop hpresent hend rfl rfl rfl rfl
    case true =>
      have hpop : s.pop = true := by simp [State.pop, hrst, hrun, hfsm, hfv, hne]
      rw [follower_of_awl_pop w hrun hfsm hfv hne]
      split_ifs <;> exact .popped hpop rfl rfl rfl rfl
  case true =>
    have hpop : s.pop = false := by simp [State.pop, hfv]
    rw [follower_of_awl_held w hrun hfsm hfv]
    split_ifs <;> exact .kept hpop hpresent hend rfl rfl rfl rfl

theorem follower_event_awh (hrun : s.input.run = true) (hfsm : s.follower.fsm = .awh) :
    FollowerEvent s w (follower s w) := by
  have hpop : s.pop = false := by simp [State.pop, hfsm]
  have hpresent : s.presentStep = false := by simp [State.presentStep, State.shifting, hfsm]
  have hend : ¬(s.wordEnd = true ∧ s.follower.fsm = .sr) := by simp [hfsm]
  rw [follower_of_awh w hrun hfsm]
  split_ifs <;> exact .kept hpop hpresent hend rfl rfl rfl rfl

theorem follower_event_sl (hrst : s.input.rst = false) (hrun : s.input.run = true) (hfsm : s.follower.fsm = .sl) :
    FollowerEvent s w (follower s w) := by
  have hpop : s.pop = false := by simp [State.pop, hfsm]
  have hend : ¬(s.wordEnd = true ∧ s.follower.fsm = .sr) := by simp [hfsm]
  cases hphase : s.follower.phase
  case waitRise =>
    rw [follower_of_sl_waitRise w hrun hfsm hphase]
    split_ifs with hrise
    · exact .presented (State.presentStep_iff.mpr ⟨hrst, hrun, .inl hfsm, hphase, hrise⟩) (by simp [State.presentBit, hfsm])
    · exact .kept hpop (by simp [State.presentStep, hrise]) hend rfl rfl rfl rfl
  case waitFall =>
    have hpresent : s.presentStep = false := by simp [State.presentStep, hphase]
    rw [follower_of_sl_waitFall w hrun hfsm hphase]
    split_ifs <;> exact .kept hpop hpresent hend rfl rfl rfl rfl

theorem follower_event_sr (hrst : s.input.rst = false) (hrun : s.input.run = true) (hfsm : s.follower.fsm = .sr) :
    FollowerEvent s w (follower s w) := by
  have hpop : s.pop = false := by simp [State.pop, hfsm]
  cases hphase : s.follower.phase
  case waitRise =>
    have hend : ¬(s.wordEnd = true ∧ s.follower.fsm = .sr) := by simp [State.wordEnd, hphase]
    rw [follower_of_sr_waitRise w hrun hfsm hphase]
    split_ifs with hrise
    · exact .presented (State.presentStep_iff.mpr ⟨hrst, hrun, .inr hfsm, hphase, hrise⟩) (by simp [State.presentBit, hfsm])
    · exact .kept hpop (by simp [State.presentStep, hrise]) hend rfl rfl rfl rfl
  case waitFall =>
    have hpresent : s.presentStep = false := by simp [State.presentStep, hphase]
    rw [follower_of_sr_waitFall w hrun hfsm hphase]
    split_ifs with hfall hiz
    · exact .rightWordEnded (State.wordEnd_iff.mpr ⟨hrst, hrun, .inr hfsm, hphase, hfall, hiz⟩) hfsm rfl
    · exact .kept hpop hpresent (by simp [State.wordEnd, hiz]) rfl rfl rfl rfl
    · exact .kept hpop hpresent (by simp [State.wordEnd, hfall]) rfl rfl rfl rfl

theorem follower_event (hrst : s.input.rst = false) : FollowerEvent s w (follower s w) := by
  cases hrun : s.input.run
  case false =>
    rw [follower_of_not_run w hrun]
    exact .kept (by simp [State.pop, hrun]) (by simp [State.presentStep, hrun]) (by simp [State.wordEnd, hrun])
      rfl rfl rfl rfl
  case true =>
  cases hfsm : s.follower.fsm
  case awl => exact follower_event_awl w hrst hrun hfsm
  case sl => exact follower_event_sl w hrst hrun hfsm
  case awh => exact follower_event_awh w hrun hfsm
  case sr => exact follower_event_sr w hrst hrun hfsm

theorem follower_sd (hrst : s.input.rst = false) :
    (follower s w).sd = if s.presentStep then s.presentBit else s.follower.sd := by
  cases follower_event w hrst with
  | popped hpop _ _ hsd _ => simp [hsd, State.presentStep_eq_false_of_pop hpop]
  | presented hpresent hf => simp [hf, hpresent]
  | rightWordEnded hend _ hf => simp [hf, State.presentStep_eq_false_of_wordEnd hend]
  | kept _ hpresent _ _ _ hsd _ => simp [hsd, hpresent]

theorem follower_frame (hrst : s.input.rst = false) :
    (follower s w).frame = if s.pop then w else s.follower.frame := by
  cases follower_event w hrst with
  | popped hpop hframe _ _ _ => simp [hframe, hpop]
  | presented hpresent hf => simp [hf, State.pop_eq_false_of_presentStep hpresent]
  | rightWordEnded hend _ hf => simp [hf, State.pop_eq_false_of_wordEnd hend]
  | kept hpop _ _ hframe _ _ _ => simp [hframe, hpop]

theorem follower_frameValid (hrst : s.input.rst = false) :
    (follower s w).frameValid = if s.pop then true else if s.wordEnd = true ∧ s.follower.fsm = .sr then false
      else s.follower.frameValid := by
  cases follower_event w hrst with
  | popped hpop _ hvalid _ _ => simp [hvalid, hpop]
  | presented hpresent hf =>
    simp [hf, State.pop_eq_false_of_presentStep hpresent, State.wordEnd_eq_false_of_presentStep hpresent]
  | rightWordEnded hend hfsm hf => simp [hf, State.pop_eq_false_of_wordEnd hend, hend, hfsm]
  | kept hpop _ hend _ hvalid _ _ => rw [hvalid, hpop, if_neg hend]; rfl

theorem follower_framesTx (hrst : s.input.rst = false) :
    (follower s w).framesTx = if s.wordEnd = true ∧ s.follower.fsm = .sr then s.follower.framesTx + 1
      else s.follower.framesTx := by
  cases follower_event w hrst with
  | popped hpop _ _ _ htx => simp [htx, State.wordEnd_eq_false_of_pop hpop]
  | presented hpresent hf => simp [hf, State.wordEnd_eq_false_of_presentStep hpresent]
  | rightWordEnded hend hfsm hf => simp [hf, hend, hfsm]
  | kept _ _ hend _ _ _ htx => rw [htx, if_neg hend]

end Reference

/-! ## The selected operations compute the reference description -/

section Selected

variable {s : State}

/-- In AwaitWordSelectLow (R134 to R138). -/
theorem performFollower_selected_awl (hptr : s.fifo.rdPtr < s.params.fifoDepth) (hrun : s.input.run = true)
    (hfsm : s.follower.fsm = .awl) :
    ∃ f, decodeF s.selF = .ok f ∧
      performFollower f s = .next (s.setFollower (Reference.follower s (s.fifo.mem.read s.fifo.rdPtr))) := by
  cases hfv : s.follower.frameValid
  · cases hne : s.fifoNe
    · obtain ⟨x, hx⟩ := selects_awlStarve hrun hfsm hfv hne
      rw [Reference.follower_of_awl_starved _ hrun hfsm hfv hne]
      exact ⟨_, hx, rfl⟩
    · rw [Reference.follower_of_awl_pop _ hrun hfsm hfv hne]
      cases hws : s.wsS
      · obtain ⟨x, hx⟩ := selects_awlPopStart hrun hfsm hfv hne hws
        exact ⟨_, hx, withHead_of_lt _ hptr⟩
      · obtain ⟨x, hx⟩ := selects_awlPop hrun hfsm hfv hne hws
        exact ⟨_, hx, withHead_of_lt _ hptr⟩
  · rw [Reference.follower_of_awl_held _ hrun hfsm hfv]
    cases hws : s.wsS
    · obtain ⟨x, hx⟩ := selects_awlStart hrun hfsm hfv hws
      exact ⟨_, hx, rfl⟩
    · obtain ⟨x, hx⟩ := selects_awlWait hrun hfsm hfv hws
      exact ⟨_, hx, rfl⟩

/-- In ShiftLeft (R139 to R143). -/
theorem performFollower_selected_sl (w : FrameWord) (hrun : s.input.run = true) (hfsm : s.follower.fsm = .sl) :
    ∃ f, decodeF s.selF = .ok f ∧ performFollower f s = .next (s.setFollower (Reference.follower s w)) := by
  cases hphase : s.follower.phase
  · rw [Reference.follower_of_sl_waitRise _ hrun hfsm hphase]
    cases hrise : s.rise
    · obtain ⟨x, hx⟩ := selects_slWaitRise hrun hfsm hphase hrise
      exact ⟨_, hx, rfl⟩
    · obtain ⟨x, hx⟩ := selects_slPresent hrun hfsm hphase hrise
      exact ⟨_, hx, rfl⟩
  · rw [Reference.follower_of_sl_waitFall _ hrun hfsm hphase]
    cases hfall : s.fall
    · obtain ⟨x, hx⟩ := selects_slWaitFall hrun hfsm hphase hfall
      exact ⟨_, hx, rfl⟩
    · cases hiz : s.idxZero
      · obtain ⟨x, hx⟩ := selects_slNext hrun hfsm hphase hfall hiz
        exact ⟨_, hx, rfl⟩
      · obtain ⟨x, hx⟩ := selects_slLast hrun hfsm hphase hfall hiz
        exact ⟨_, hx, rfl⟩

/-- In AwaitWordSelectHigh (R144, R145). -/
theorem performFollower_selected_awh (w : FrameWord) (hrun : s.input.run = true) (hfsm : s.follower.fsm = .awh) :
    ∃ f, decodeF s.selF = .ok f ∧ performFollower f s = .next (s.setFollower (Reference.follower s w)) := by
  rw [Reference.follower_of_awh _ hrun hfsm]
  cases hws : s.wsS
  · obtain ⟨x, hx⟩ := selects_awhWait hrun hfsm hws
    exact ⟨_, hx, rfl⟩
  · obtain ⟨x, hx⟩ := selects_awhStart hrun hfsm hws
    exact ⟨_, hx, rfl⟩

/-- In ShiftRight (R146 to R150). -/
theorem performFollower_selected_sr (w : FrameWord) (hrun : s.input.run = true) (hfsm : s.follower.fsm = .sr) :
    ∃ f, decodeF s.selF = .ok f ∧ performFollower f s = .next (s.setFollower (Reference.follower s w)) := by
  cases hphase : s.follower.phase
  · rw [Reference.follower_of_sr_waitRise _ hrun hfsm hphase]
    cases hrise : s.rise
    · obtain ⟨x, hx⟩ := selects_srWaitRise hrun hfsm hphase hrise
      exact ⟨_, hx, rfl⟩
    · obtain ⟨x, hx⟩ := selects_srPresent hrun hfsm hphase hrise
      exact ⟨_, hx, rfl⟩
  · rw [Reference.follower_of_sr_waitFall _ hrun hfsm hphase]
    cases hfall : s.fall
    · obtain ⟨x, hx⟩ := selects_srWaitFall hrun hfsm hphase hfall
      exact ⟨_, hx, rfl⟩
    · cases hiz : s.idxZero
      · obtain ⟨x, hx⟩ := selects_srNext hrun hfsm hphase hfall hiz
        exact ⟨_, hx, rfl⟩
      · obtain ⟨x, hx⟩ := selects_srLast hrun hfsm hphase hfall hiz
        exact ⟨_, hx, rfl⟩

/-- The follower operation a state selects computes the four-state machine of R130. -/
theorem performFollower_selected (hptr : s.fifo.rdPtr < s.params.fifoDepth) :
    ∃ f, decodeF s.selF = .ok f ∧
      performFollower f s = .next (s.setFollower (Reference.follower s (s.fifo.mem.read s.fifo.rdPtr))) := by
  cases hrun : s.input.run
  · obtain ⟨x, hx⟩ := selects_fHold hrun
    rw [Reference.follower_of_not_run _ hrun]
    exact ⟨_, hx, rfl⟩
  · cases hfsm : s.follower.fsm
    · exact performFollower_selected_awl hptr hrun hfsm
    · exact performFollower_selected_sl _ hrun hfsm
    · exact performFollower_selected_awh _ hrun hfsm
    · exact performFollower_selected_sr _ hrun hfsm

/-- The FIFO operation a state selects computes the ring buffer's update by push and pop (R171 to R174). -/
theorem performFifo_selected (hptr : s.fifo.wrPtr < s.params.fifoDepth) :
    performFifo (decodeP s.selP) s = .next (s.setFifo (Reference.fifo s)) := by
  rw [decodeP_selP]
  unfold Reference.fifo
  cases s.push <;> cases s.pop
  case false.false => rfl
  case false.true => rfl
  case true.false => exact withPushed_of_lt _ hptr
  case true.true => exact withPushed_of_lt _ hptr

/-- The assembler operation a state selects computes the update by what is accepted (R192 to R197). -/
theorem performAssembler_selected (hrst : s.input.rst = false) :
    ∃ a, decodeA s.selA = .ok a ∧ performAssembler a s = .next (s.setAssembler (Reference.assembler s)) := by
  cases hes : s.assembler.eosSeen
  case true =>
    obtain ⟨x, hx⟩ := selects_aClosed hes
    rw [Reference.assembler_of_eosSeen hes]
    exact ⟨_, hx, rfl⟩
  case false =>
  cases heo : s.input.inEos
  case true =>
    obtain ⟨x, hx⟩ := selects_aEos hes heo
    rw [Reference.assembler_of_inEos hes heo]
    exact ⟨_, hx, rfl⟩
  case false =>
  cases hiv : s.input.inValid
  case false =>
    obtain ⟨x, hx⟩ := selects_aIdle hes heo hiv
    have hacc : s.accept = false := by simp [State.accept, hiv]
    rw [Reference.assembler_of_not_accept heo hacc]
    exact ⟨_, hx, rfl⟩
  case true =>
  cases hb3 : s.bcnt3
  case false =>
    obtain ⟨x, hx⟩ := selects_aAccept hes heo hiv hb3
    have hacc : s.accept = true := by simp [State.accept, State.inReady, hrst, hes, heo, hiv, hb3]
    rw [Reference.assembler_of_accept hacc, hb3]
    exact ⟨_, hx, rfl⟩
  case true =>
  cases hnf : s.fifoNf
  case false =>
    have hacc : s.accept = false := by simp [State.accept, State.inReady, hb3, hnf]
    rw [Reference.assembler_of_not_accept heo hacc]
    exact ⟨_, selects_aStall hes heo hiv hb3 hnf, rfl⟩
  case true =>
    have hacc : s.accept = true := by simp [State.accept, State.inReady, hrst, hes, heo, hiv, hnf]
    rw [Reference.assembler_of_accept hacc, hb3]
    exact ⟨_, selects_aComplete hes heo hiv hb3 hnf, rfl⟩

/-- STEP, by its selector words, is the block of the reference description (R111, R130, R170, R190). -/
theorem execStep_eq_reference (hrst : s.input.rst = false) (hrd : s.fifo.rdPtr < s.params.fifoDepth)
    (hwr : s.fifo.wrPtr < s.params.fifoDepth) :
    execStep s = .next { s with
      follower := Reference.follower s (s.fifo.mem.read s.fifo.rdPtr)
      fifo := Reference.fifo s
      assembler := Reference.assembler s
      sync := s.syncNext } := by
  obtain ⟨f, hf, hfollower⟩ := performFollower_selected hrd
  obtain ⟨a, ha, hassembler⟩ := performAssembler_selected hrst
  simp [execStep, hf, ha, hfollower, hassembler, performFifo_selected hwr]

end Selected

/-! ## What a step does, from a state with the invariant -/

theorem params_wellFormed_iff {p : Params} : p.wellFormed = true ↔ 1 ≤ p.fifoDepth ∧ 1 ≤ p.syncStages := by
  simp [Params.wellFormed]

theorem Fifo.Inv.wrPtr_lt {c : Nat} {q : Fifo} (h : q.Inv c) : q.wrPtr < c := by
  rw [h.wrPtr_eq]
  exact Nat.mod_lt _ (Nat.zero_lt_of_lt h.rdPtr_lt)

/-- What a step with `rst = 0` leaves in the registers (R111), and that it consumes its input vector (R113). -/
structure SessionStep (s t : State) : Prop where
  params : t.params = s.params
  follower : t.follower = Reference.follower s (s.fifo.mem.read s.fifo.rdPtr)
  fifo : t.fifo = Reference.fifo s
  assembler : t.assembler = Reference.assembler s
  sync : t.sync = s.syncNext
  stimulus : t.stimulus = s.stimulus.tail

/-- What a step with `rst = 1` leaves in the registers (R240), and that it consumes its input vector (R113). -/
structure ResetStep (s t : State) : Prop where
  params : t.params = s.params
  follower : t.follower = Follower.reset
  fifo : t.fifo = Fifo.resetKeeping s.fifo.mem
  assembler : t.assembler = Assembler.reset
  sync : t.sync = Sync.reset s.params
  stimulus : t.stimulus = s.stimulus.tail

theorem exists_resetStep {s : State} (hrst : s.input.rst = true) : ∃ t, step s = .next t ∧ ResetStep s t :=
  ⟨_, step_of_rst hrst, by constructor <;> simp⟩

theorem State.Inv.exists_sessionStep {s : State} (hs : s.Inv) (hrst : s.input.rst = false) :
    ∃ t, step s = .next t ∧ SessionStep s t := by
  have hstep := execStep_eq_reference hrst hs.fifo_inv.rdPtr_lt hs.fifo_inv.wrPtr_lt
  refine ⟨_, by rw [step_of_not_rst hrst, hstep, consumed_next], ?_⟩
  constructor <;> simp

/-- Every state with the invariant steps, as `rst` says. -/
theorem State.Inv.exists_step {s : State} (hs : s.Inv) : ∃ t, step s = .next t ∧
    (s.input.rst = false → SessionStep s t) ∧ (s.input.rst = true → ResetStep s t) := by
  cases hrst : s.input.rst
  · obtain ⟨t, ht, hsession⟩ := hs.exists_sessionStep hrst
    exact ⟨t, ht, fun _ => hsession, fun h => Bool.noConfusion h⟩
  · obtain ⟨t, ht, hreset⟩ := exists_resetStep hrst
    exact ⟨t, ht, fun h => Bool.noConfusion h, fun _ => hreset⟩

end Sys2Proof.Machine

/-! ## The obligations on the state and its signals (spec/10_state.md) -/

namespace Sys2Proof.Machine

/-- Settles O8: each signal by its condition; `push` takes its room in the FIFO from `in_ready`. -/
theorem handshakeSignalsFollowTheirEquations : Obligations.HandshakeSignalsFollowTheirEquations := fun _ =>
  ⟨State.inReady_iff, State.accept_iff, State.push_iff, rfl, State.pop_iff, State.fifo_not_full_of_push,
    State.fifo_not_empty_of_pop⟩

/-- Settles O9: each status output by its condition; after reset no frame is held and none is queued. -/
theorem statusOutputsFollowTheirEquations : Obligations.StatusOutputsFollowTheirEquations :=
  ⟨fun _ => ⟨rfl, State.starved_iff, State.sessionDone_iff⟩,
    fun p => (State.starved_iff (s := State.resetWith p)).mpr ⟨rfl, rfl, rfl⟩⟩

/-- Settles O41: `sd` changes only where the follower step presents a bit. -/
theorem serialDataIsWrittenOnlyWhenPresented : Obligations.SerialDataIsWrittenOnlyWhenPresented := by
  intro s hs
  obtain ⟨t, ht, hsession, hreset⟩ := hs.exists_step
  refine ⟨rfl, t, ht, fun hrst hpresent => ?_, fun hrst hpresent => ?_, fun hrst => ?_⟩
  · simp [(hsession hrst).follower, Reference.follower_sd _ hrst, hpresent]
  · simp [(hsession hrst).follower, Reference.follower_sd _ hrst, hpresent]
  · rw [(hreset hrst).follower]; rfl

/-- Settles O42: only a pop writes `frame`, and only a pop and a right word end write `frame_valid`. -/
theorem frameIsHeldFromItsPopToItsLastBit : Obligations.FrameIsHeldFromItsPopToItsLastBit := by
  intro s hs
  obtain ⟨t, ht, hsession, hreset⟩ := hs.exists_step
  have hframe := fun hrst => (congrArg Follower.frame (hsession hrst).follower).trans (Reference.follower_frame _ hrst)
  have hvalid := fun hrst =>
    (congrArg Follower.frameValid (hsession hrst).follower).trans (Reference.follower_frameValid _ hrst)
  refine ⟨t, ht, fun hrst hpop => ?_, fun hrst hpop => ?_, fun hrst hend hfsm => ?_, fun hrst hpop hend => ?_,
    fun hrst => ?_⟩
  · simp [hframe hrst, hvalid hrst, hpop]
  · simp [hframe hrst, hpop]
  · simp [hvalid hrst, State.pop_eq_false_of_wordEnd hend, hend, hfsm]
  · rw [hvalid hrst, hpop, if_neg hend]; rfl
  · rw [(hreset hrst).follower]; exact ⟨rfl, rfl⟩

/-- Settles O45: `frames_tx` moves with the right word ends and `bytes_rx` with the accepted bytes. -/
theorem countersCountFramesAndBytes : Obligations.CountersCountFramesAndBytes := by
  intro s hs
  obtain ⟨t, ht, hsession, hreset⟩ := hs.exists_step
  have htx := fun hrst =>
    (congrArg Follower.framesTx (hsession hrst).follower).trans (Reference.follower_framesTx _ hrst)
  have hrx := fun hrst =>
    (congrArg Assembler.bytesRx (hsession hrst).assembler).trans Reference.assembler_bytesRx
  refine ⟨rfl, rfl, t, ht, fun hrst hend hfsm => ?_, fun hrst hend => ?_, fun hrst hacc => ?_, fun hrst hacc => ?_,
    fun hrst => ?_⟩
  · rw [htx hrst, if_pos ⟨hend, hfsm⟩]
  · rw [htx hrst, if_neg hend]
  · rw [hrx hrst, if_pos hacc]
  · simp [hrx hrst, hacc]
  · rw [(hreset hrst).follower, (hreset hrst).assembler]; exact ⟨rfl, rfl⟩

/-- Settles O47: `syncNext` shifts both chains (R39) and takes the sample (R40), and no condition on `run` stands in it. -/
theorem synchroniserShiftsEveryStep : Obligations.SynchroniserShiftsEveryStep := by
  intro s hs
  obtain ⟨t, ht, hsession, hreset⟩ := hs.exists_step
  have hb := hs.bsync_length
  have hw := hs.wsync_length
  obtain ⟨-, hN⟩ := params_wellFormed_iff.mp hs.params_wf
  obtain ⟨hbsync, hwsync⟩ : t.sync.bsync.length = s.params.syncStages ∧ t.sync.wsync.length = s.params.syncStages := by
    cases hrst : s.input.rst
    · simp [(hsession hrst).sync, State.syncNext, hb, hw]
    · simp [(hreset hrst).sync, Sync.reset]
  refine ⟨t, ht, hbsync, hwsync, fun hrst => ?_, fun hrst => ?_⟩
  · rw [(hsession hrst).sync]
    refine ⟨rfl, shiftChain_getElem? _ _ 0 (by omega), shiftChain_getElem? _ _ 0 (by omega), fun k hk => ?_⟩
    exact ⟨shiftChain_getElem? _ _ (k + 1) (by omega), shiftChain_getElem? _ _ (k + 1) (by omega)⟩
  · rw [(hreset hrst).sync]
    exact ⟨rfl, fun k hk => ⟨List.getElem?_replicate_of_lt hk, List.getElem?_replicate_of_lt hk⟩⟩

/-- Settles O50: `eos_seen` takes the disjunction of itself and `in_eos`. -/
theorem endOfStreamIsSticky : Obligations.EndOfStreamIsSticky := by
  intro s hs
  obtain ⟨t, ht, hsession, hreset⟩ := hs.exists_step
  refine ⟨State.inReady_of_eosSeen, t, ht, fun hrst => ?_, fun hrst => ?_⟩
  · rw [(hsession hrst).assembler, Reference.assembler_eosSeen, Bool.or_eq_true]
  · rw [(hreset hrst).assembler]; rfl

end Sys2Proof.Machine

/-! SUPPORT. The ring buffer as a queue (R58, R81): the FIFO's part of a step is a pop followed by a push, and each of the two keeps the
ring buffer's invariant and has its plain meaning on the list of live entries. -/

namespace Sys2Proof.Machine

/-! ## Removing the oldest word and appending a word -/

namespace Fifo

/-- `rd_ptr <- (rd_ptr + 1) mod C`, `count <- count - 1` (R173). -/
def popped (c : Nat) (q : Fifo) : Fifo := { q with rdPtr := (q.rdPtr + 1) % c, count := q.count - 1 }

/-- `MemWrite(fifo, wr_ptr, w)`, `wr_ptr <- (wr_ptr + 1) mod C`, `count <- count + 1` (R172). -/
def pushed (c : Nat) (q : Fifo) (w : FrameWord) : Fifo :=
  { q with mem := q.mem.write q.wrPtr w, wrPtr := (q.wrPtr + 1) % c, count := q.count + 1 }

/-- The words of the `count` slots from `rd_ptr` on, oldest first (R58). -/
def live (c : Nat) (q : Fifo) : List FrameWord :=
  (List.range q.count).map fun k => q.mem.read ((q.rdPtr + k) % c)

variable {c : Nat} {q : Fifo}

/-- With one entry removed, live slot `k` is what was live slot `k + 1`. -/
theorem popped_slot (k : Nat) : ((q.popped c).rdPtr + k) % c = (q.rdPtr + (k + 1)) % c := by
  rw [popped, Nat.mod_add_mod, Nat.add_assoc, Nat.add_comm 1 k]

namespace Inv

/-- A ring buffer that is not full has a free slot at `wr_ptr`: it is none of the live ones. -/
theorem live_slot_ne_wrPtr (h : q.Inv c) (hroom : q.count < c) {k : Nat} (hk : k < q.count) :
    (q.rdPtr + k) % c ≠ q.wrPtr := by
  rw [h.wrPtr_eq]
  intro heq
  have hcongr : k ≡ q.count [MOD c] := Nat.ModEq.add_left_cancel' q.rdPtr heq
  exact hk.ne (hcongr.eq_of_lt_of_lt (hk.trans hroom) hroom)

theorem popped (h : q.Inv c) (hne : q.count ≠ 0) : (q.popped c).Inv c where
  rdPtr_lt := Nat.mod_lt _ (Nat.zero_lt_of_lt h.rdPtr_lt)
  wrPtr_eq := by
    have hcount : q.count - 1 + 1 = q.count := Nat.succ_pred hne
    rw [popped_slot]
    exact hcount ▸ h.wrPtr_eq
  count_le := (Nat.sub_le _ _).trans h.count_le
  live_written k hk := by
    rw [popped_slot]
    exact h.live_written (k + 1) (Nat.add_lt_of_lt_sub hk)
  mem_wf := h.mem_wf

theorem pushed (h : q.Inv c) (hroom : q.count < c) (w : FrameWord) : (q.pushed c w).Inv c where
  rdPtr_lt := h.rdPtr_lt
  wrPtr_eq := by
    show (q.wrPtr + 1) % c = (q.rdPtr + (q.count + 1)) % c
    rw [h.wrPtr_eq, Nat.mod_add_mod, Nat.add_assoc]
  count_le := hroom
  live_written k hk := by
    show (q.mem.write q.wrPtr w).written ((q.rdPtr + k) % c) = true
    rw [Memory.written_write, Bool.or_eq_true, beq_iff_eq]
    rcases Nat.lt_succ_iff_lt_or_eq.mp hk with hold | rfl
    · exact .inr (h.live_written k hold)
    · exact .inl h.wrPtr_eq
  mem_wf := Memory.wf_write _ _ h.mem_wf h.wrPtr_lt

/-- A pop removes the oldest live entry. -/
theorem live_eq_cons_popped (h : q.Inv c) (hne : q.count ≠ 0) :
    q.live c = q.mem.read q.rdPtr :: (q.popped c).live c := by
  have hcount : q.count = (q.popped c).count + 1 := (Nat.succ_pred hne).symm
  rw [live, hcount, List.range_succ_eq_map, List.map_cons, List.map_map, Nat.add_zero, Nat.mod_eq_of_lt h.rdPtr_lt]
  congr 1
  exact List.map_congr_left fun k _ => congrArg q.mem.read (popped_slot k).symm

/-- A push appends its word after the live entries. -/
theorem live_pushed (h : q.Inv c) (hroom : q.count < c) (w : FrameWord) :
    (q.pushed c w).live c = q.live c ++ [w] := by
  have hold : ∀ k ∈ List.range q.count,
      (q.mem.write q.wrPtr w).read ((q.rdPtr + k) % c) = q.mem.read ((q.rdPtr + k) % c) := fun k hk =>
    Memory.read_write_other _ _ (h.live_slot_ne_wrPtr hroom (List.mem_range.mp hk))
  have hnew : (q.mem.write q.wrPtr w).read ((q.rdPtr + q.count) % c) = w := by
    rw [← h.wrPtr_eq, Memory.read_write_same]
  show (List.range (q.count + 1)).map (fun k => (q.mem.write q.wrPtr w).read ((q.rdPtr + k) % c)) = _
  rw [List.range_succ, List.map_append, List.map_congr_left hold, List.map_singleton, hnew]
  rfl

end Inv
end Fifo

theorem State.entries_eq_live (s : State) : s.entries = s.fifo.live s.params.fifoDepth := rfl

/-! ## The FIFO's part of a step -/

section FifoStep

variable {s : State}

/-- The ring buffer after this step's pop and before its push. -/
def State.fifoAfterPop (s : State) : Fifo := if s.pop then s.fifo.popped s.params.fifoDepth else s.fifo

/-- FIFO_PUSHPOP is a pop and then a push: a pop meets no empty FIFO, so the count comes back to itself. -/
theorem Reference.fifo_eq_pop_then_push :
    Reference.fifo s = if s.push then s.fifoAfterPop.pushed s.params.fifoDepth s.word else s.fifoAfterPop := by
  cases hpop : s.pop
  case false => cases hpush : s.push <;> simp [Reference.fifo, State.fifoAfterPop, Fifo.pushed, hpop, hpush]
  case true =>
    have hcount : s.fifo.count - 1 + 1 = s.fifo.count := Nat.succ_pred (State.fifo_not_empty_of_pop hpop)
    cases hpush : s.push <;>
      simp [Reference.fifo, State.fifoAfterPop, Fifo.pushed, Fifo.popped, hpop, hpush, hcount]

variable (hq : s.fifo.Inv s.params.fifoDepth)
include hq

theorem State.fifoAfterPop_inv : s.fifoAfterPop.Inv s.params.fifoDepth := by
  unfold State.fifoAfterPop
  split_ifs with hpop
  · exact hq.popped (State.fifo_not_empty_of_pop hpop)
  · exact hq

theorem State.entries_eq_poppedNow_append : s.entries = s.poppedNow ++ s.fifoAfterPop.live s.params.fifoDepth := by
  unfold State.poppedNow State.fifoAfterPop
  split_ifs with hpop
  · exact hq.live_eq_cons_popped (State.fifo_not_empty_of_pop hpop)
  · rfl

/-- A push finds room, whether or not an entry is popped with it. -/
theorem State.fifoAfterPop_count_lt (hpush : s.push = true) : s.fifoAfterPop.count < s.params.fifoDepth := by
  have hroom : s.fifo.count < s.params.fifoDepth := hq.count_le.lt_of_ne (State.fifo_not_full_of_push hpush)
  unfold State.fifoAfterPop
  split_ifs
  · exact (Nat.sub_le _ _).trans_lt hroom
  · exact hroom

/-- The FIFO's part of a step keeps the ring buffer's invariant (R58). -/
theorem Reference.fifo_inv : (Reference.fifo s).Inv s.params.fifoDepth := by
  rw [fifo_eq_pop_then_push]
  split_ifs with hpush
  · exact (State.fifoAfterPop_inv hq).pushed (State.fifoAfterPop_count_lt hq hpush) _
  · exact State.fifoAfterPop_inv hq

theorem Reference.fifo_live :
    (Reference.fifo s).live s.params.fifoDepth = s.fifoAfterPop.live s.params.fifoDepth ++ s.pushedNow := by
  rw [fifo_eq_pop_then_push, State.pushedNow]
  split_ifs with hpush
  · exact (State.fifoAfterPop_inv hq).live_pushed (State.fifoAfterPop_count_lt hq hpush) _
  · exact (List.append_nil _).symm

/-- A step with `rst = 0` that completes is a session step, for a state whose ring buffer is sound. -/
theorem SessionStep.of_step {t : State} (hrst : s.input.rst = false) (ht : step s = .next t) : SessionStep s t := by
  rw [step_of_not_rst hrst, execStep_eq_reference hrst hq.rdPtr_lt hq.wrPtr_lt, consumed_next] at ht
  obtain rfl := Host.Outcome.next.inj ht
  constructor <;> simp

theorem SessionStep.fifo_inv {t : State} (hstep : SessionStep s t) : t.fifo.Inv t.params.fifoDepth := by
  rw [hstep.params, hstep.fifo]
  exact Reference.fifo_inv hq

/-- R81 for one step: what was queued and what is pushed is what is popped and what is queued then, in order. -/
theorem SessionStep.entries {t : State} (hstep : SessionStep s t) :
    s.entries ++ s.pushedNow = s.poppedNow ++ t.entries := by
  rw [State.entries_eq_poppedNow_append hq, List.append_assoc, ← Reference.fifo_live hq, t.entries_eq_live, hstep.params,
    hstep.fifo]

end FifoStep

/-- The ring buffer is sound after reset: no slot is live (R43, R44, R240). -/
theorem Fifo.inv_reset {c : Nat} (hc : 1 ≤ c) : (Fifo.resetKeeping []).Inv c where
  rdPtr_lt := hc
  wrPtr_eq := (Nat.zero_mod c).symm
  count_le := Nat.zero_le c
  live_written _ hk := absurd hk (Nat.not_lt_zero _)
  mem_wf := Memory.wf_nil c

/-! ## Runs, one step at a time -/

section Run

variable {s t : State} {n : Nat}

theorem record_succ {α : Type} (obs : State → List α) (h : step s = .next t) :
    record obs (n + 1) s = obs s ++ record obs n t := by
  simp [record, h]

/-- A run of `n + 1` steps that completes is a step that completes and a run of `n` steps. -/
theorem runFor_succ_eq_next (h : runFor (n + 1) s = .next t) : ∃ u, step s = .next u ∧ runFor n u = .next t := by
  rw [runFor] at h
  split at h
  · next u hu => exact ⟨u, hu, h⟩
  · cases h
  · cases h

/-- The next `n` input vectors are listed, and no listed vector is a reset (R19). -/
def State.InSession (n : Nat) (s : State) : Prop := noReset s.stimulus = true ∧ n ≤ s.stimulus.length

theorem State.InSession.rst (h : s.InSession (n + 1)) : s.input.rst = false := by
  obtain ⟨hall, hlen⟩ := h
  obtain ⟨i, rest, hi⟩ := List.exists_cons_of_length_pos (Nat.zero_lt_of_lt hlen)
  rw [hi, noReset, List.all_cons, Bool.and_eq_true, Bool.not_eq_true'] at hall
  rw [input_of_stimulus hi]
  exact hall.1

theorem State.InSession.of_sessionStep (h : s.InSession (n + 1)) (hstep : SessionStep s t) : t.InSession n := by
  obtain ⟨hall, hlen⟩ := h
  rw [State.InSession, hstep.stimulus, List.length_tail]
  refine ⟨List.all_eq_true.mpr fun i hi => ?_, Nat.le_sub_of_add_le hlen⟩
  exact List.all_eq_true.mp hall i (List.mem_of_mem_tail hi)

/-- R81 along a session from any sound ring buffer: what was queued and what was pushed since is what was popped and what is queued,
in order. -/
theorem entries_append_pushed_eq_popped_append_entries (hq : s.fifo.Inv s.params.fifoDepth) (hs : s.InSession n)
    (hrun : runFor n s = .next t) :
    s.entries ++ record State.pushedNow n s = record State.poppedNow n s ++ t.entries := by
  induction n generalizing s with
  | zero =>
    obtain rfl := Host.Outcome.next.inj hrun
    exact List.append_nil _
  | succ n ih =>
    obtain ⟨u, hu, hrest⟩ := runFor_succ_eq_next hrun
    have hstep : SessionStep s u := .of_step hq hs.rst hu
    have htail := ih (hstep.fifo_inv hq) (hs.of_sessionStep hstep) hrest
    calc s.entries ++ record State.pushedNow (n + 1) s
        = s.entries ++ s.pushedNow ++ record State.pushedNow n u := by rw [record_succ _ hu, List.append_assoc]
      _ = s.poppedNow ++ (u.entries ++ record State.pushedNow n u) := by rw [hstep.entries hq, List.append_assoc]
      _ = record State.poppedNow (n + 1) s ++ t.entries := by rw [htail, record_succ _ hu, List.append_assoc]

end Run

/-! ## The obligation on the FIFO along a session (spec/41_fifo.md) -/

/-- Settles O37: after reset nothing is queued, and every step of a session keeps the order of the queue. -/
theorem poppedFramesArePushedFramesInOrder : Obligations.PoppedFramesArePushedFramesInOrder := by
  intro p is n t hp hsession hn hrun
  obtain ⟨hdepth, -⟩ := params_wellFormed_iff.mp hp
  have hq : (freshWith p is).fifo.Inv (freshWith p is).params.fifoDepth := Fifo.inv_reset hdepth
  exact entries_append_pushed_eq_popped_append_entries hq ⟨hsession, hn⟩ hrun

end Sys2Proof.Machine

/-! SUPPORT. The rows of the assembler's table (R108): a selector value meets the row of the operation it decodes to and no other row,
and the selected row tells the fields of the selector (R107) that it tests. -/

namespace Sys2Proof.Machine

/-! ## The rows that a selector value meets -/

/-- The mask and match of each row of the assembler's table, in its order (R108). -/
def assemblerRows : List (BitVec 10 × BitVec 10) :=
  [(0x010, 0x010), (0x018, 0x008), (0x01C, 0x000), (0x01E, 0x004), (0x01F, 0x007), (0x01F, 0x006)]

theorem row_mem_assemblerRows {i : Instr} (h : i.format = .assembler) : (i.rowMask, i.rowMatch) ∈ assemblerRows := by
  cases i
  case aClosed | aEos | aIdle | aAccept | aComplete | aStall => simp [assemblerRows, Instr.rowMask, Instr.rowMatch]
  all_goals cases h

/-- Any two rows differ in the match of a bit that both test. -/
theorem assemblerRows_pairwise_differ : assemblerRows.Pairwise fun r r' => r.2 &&& r'.1 ≠ r'.2 &&& r.1 := by decide

/-- No selector value meets two rows. -/
theorem assemblerRow_unique {w : BitVec 10} {r r' : BitVec 10 × BitVec 10} (hr : r ∈ assemblerRows)
    (hr' : r' ∈ assemblerRows) (h : w &&& r.1 = r.2) (h' : w &&& r'.1 = r'.2) : r' = r := by
  have : Std.Symm fun r r' : BitVec 10 × BitVec 10 => r.2 &&& r'.1 ≠ r'.2 &&& r.1 := ⟨fun _ _ => Ne.symm⟩
  by_contra hne
  have hagree : r'.2 &&& r.1 = r.2 &&& r'.1 := by rw [← h, ← h']; ac_rfl
  exact assemblerRows_pairwise_differ.forall hr' hr hne hagree

/-- The decoder answers an operation of the assembler's table whose row the value meets. -/
theorem format_and_row_of_decodeA {a : BitVec 5} {i : Instr} (h : decodeA a = .ok i) :
    i.format = .assembler ∧ a.setWidth 10 &&& i.rowMask = i.rowMatch := by
  have key : ∀ a : BitVec 5, ∀ i ∈ (decodeA a).toOption,
      i.format = .assembler ∧ a.setWidth 10 &&& i.rowMask = i.rowMatch := by decide
  exact key a i (by rw [h]; rfl)

/-! ## The fields that the selected row tests -/

/-- A selector value and the match of its row agree in every bit that the row tests. -/
theorem getLsbD_of_decodeA {a : BitVec 5} {i : Instr} (h : decodeA a = .ok i) (k : Nat)
    (hk : i.rowMask.getLsbD k = true) : a.getLsbD k = i.rowMatch.getLsbD k := by
  have hlt : k < 10 := BitVec.lt_of_getLsbD hk
  obtain ⟨-, hrow⟩ := format_and_row_of_decodeA h
  simp [← hrow, hk, hlt]

/-- Each field of `A` (R107) that the selected row tests has the value in the row's match. -/
theorem selA_fields_of_row {s : State} {i : Instr} (h : decodeA s.selA = .ok i) :
    (i.rowMask.getLsbD 4 = true → s.assembler.eosSeen = i.rowMatch.getLsbD 4) ∧
    (i.rowMask.getLsbD 3 = true → s.input.inEos = i.rowMatch.getLsbD 3) ∧
    (i.rowMask.getLsbD 2 = true → s.input.inValid = i.rowMatch.getLsbD 2) ∧
    (i.rowMask.getLsbD 1 = true → s.bcnt3 = i.rowMatch.getLsbD 1) ∧
    (i.rowMask.getLsbD 0 = true → s.fifoNf = i.rowMatch.getLsbD 0) := by
  obtain ⟨hes, heo, hiv, hb3, hnf⟩ := selA_bits s
  rw [← hes, ← heo, ← hiv, ← hb3, ← hnf]
  exact ⟨getLsbD_of_decodeA h 4, getLsbD_of_decodeA h 3, getLsbD_of_decodeA h 2, getLsbD_of_decodeA h 1,
    getLsbD_of_decodeA h 0⟩

/-! ## The obligations on the selectors of the assembler and the FIFO (spec/30_encoding.md) -/

/-- Settles O5: the row decoded is the one row met, and the fields it tests decide the terms of `in_ready` (R53), but for A_IDLE, which
does not test the room for a fourth byte. -/
theorem assemblerSelectorMatchesOneRowAndGivesInReady :
    Obligations.AssemblerSelectorMatchesOneRowAndGivesInReady := by
  refine ⟨fun a => ?_, fun s hrst => ?_⟩
  · obtain ⟨i, hi⟩ := decodeA_ok a
    obtain ⟨hfmt, hrow⟩ := format_and_row_of_decodeA hi
    exact ⟨i, hi, hfmt, hrow, fun j hjfmt hjrow => Prod.mk.inj <|
      assemblerRow_unique (row_mem_assemblerRows hfmt) (row_mem_assemblerRows hjfmt) hrow hjrow⟩
  · refine ⟨fun x h => ?closed, fun x h => ?eos, fun x h => ?idle, fun x h => ?accept, fun h => ?complete,
      fun h => ?stall⟩
    case closed =>
      have hes : s.assembler.eosSeen = true := by
        simpa [Instr.rowMask, Instr.rowMatch] using selA_fields_of_row h
      exact State.inReady_of_eosSeen hes
    case eos =>
      obtain ⟨-, heo⟩ : s.assembler.eosSeen = false ∧ s.input.inEos = true := by
        simpa [Instr.rowMask, Instr.rowMatch] using selA_fields_of_row h
      simp [State.inReady, heo]
    case idle =>
      obtain ⟨hes, heo, -⟩ : s.assembler.eosSeen = false ∧ s.input.inEos = false ∧ s.input.inValid = false := by
        simpa [Instr.rowMask, Instr.rowMatch] using selA_fields_of_row h
      simp [State.inReady_iff, hrst, hes, heo]
    case accept =>
      obtain ⟨hes, heo, -, hb3⟩ : s.assembler.eosSeen = false ∧ s.input.inEos = false ∧ s.input.inValid = true ∧
          s.bcnt3 = false := by
        simpa [Instr.rowMask, Instr.rowMatch] using selA_fields_of_row h
      simp [State.inReady, hrst, hes, heo, hb3]
    case complete =>
      obtain ⟨hes, heo, -, -, hnf⟩ : s.assembler.eosSeen = false ∧ s.input.inEos = false ∧ s.input.inValid = true ∧
          s.bcnt3 = true ∧ s.fifoNf = true := by
        simpa [Instr.rowMask, Instr.rowMatch] using selA_fields_of_row h
      simp [State.inReady, hrst, hes, heo, hnf]
    case stall =>
      obtain ⟨-, -, -, hb3, hnf⟩ : s.assembler.eosSeen = false ∧ s.input.inEos = false ∧ s.input.inValid = true ∧
          s.bcnt3 = true ∧ s.fifoNf = false := by
        simpa [Instr.rowMask, Instr.rowMatch] using selA_fields_of_row h
      simp [State.inReady, hb3, hnf]

/-- Settles O6: `push` finds the FIFO not full (R53), which by the invariant (R58) is `count < C`, and `pop` finds it not empty. -/
theorem fifoSelectorIsPushAndPop : Obligations.FifoSelectorIsPushAndPop := by
  intro s hs
  refine ⟨?_, ?_, ?_, ?_, fun hpush => ?_, fun hpop => ?_⟩
  iterate 4 exact fun hpush hpop => by rw [decodeP_selP, hpush, hpop]
  · exact hs.fifo_inv.count_le.lt_of_ne (State.fifo_not_full_of_push hpush)
  · exact Nat.pos_of_ne_zero (State.fifo_not_empty_of_pop hpop)

end Sys2Proof.Machine

/-! SUPPORT. The follower's rules (spec/40_follower.md) as they show in a step: where no frame is popped, where the last bit of a word is
due, and what a step does to the read pointer, the count and the synchroniser. -/

namespace Sys2Proof.Machine

/-! ## When the follower pops no frame (R53) -/

namespace State

variable {s : State}

theorem pop_eq_false_of_not_run (hrun : s.input.run = false) : s.pop = false := by
  simp [pop, hrun]

theorem pop_eq_false_of_fsm_ne_awl (hfsm : s.follower.fsm ≠ .awl) : s.pop = false := by
  simp [pop, hfsm]

/-- No second frame is popped while one is held. -/
theorem pop_eq_false_of_frameValid (hfv : s.follower.frameValid = true) : s.pop = false := by
  simp [pop, hfv]

theorem pop_eq_false_of_count_eq_zero (hcount : s.fifo.count = 0) : s.pop = false := by
  simp [pop, fifoNe, hcount]

/-! ## Conditions on a register as the signal that the selector carries (R51, R52) -/

theorem fifoNe_eq_false_iff : s.fifoNe = false ↔ s.fifo.count = 0 := by
  simp [fifoNe]

theorem fifoNe_iff : s.fifoNe = true ↔ s.fifo.count ≠ 0 := by
  simp [fifoNe]

theorem idxZero_iff : s.idxZero = true ↔ s.follower.idx = 0 := by
  simp [idxZero]

theorem idxZero_eq_false_iff : s.idxZero = false ↔ s.follower.idx ≠ 0 := by
  simp [idxZero]

/-! ## When the block is not starved (R54) -/

theorem starved_eq_false_of_frameValid (hfv : s.follower.frameValid = true) : s.starved = false := by
  simp [starved, hfv]

theorem starved_eq_false_of_count_ne_zero (hcount : s.fifo.count ≠ 0) : s.starved = false := by
  simp [starved, hcount]

end State

/-! ## The read pointer and the count after a step (R171 to R174) -/

namespace SessionStep

variable {s t : State} (hstep : SessionStep s t)
include hstep

theorem rdPtr_of_not_pop (hpop : s.pop = false) : t.fifo.rdPtr = s.fifo.rdPtr := by
  simp [hstep.fifo, Reference.fifo, hpop]

theorem rdPtr_of_pop (hpop : s.pop = true) : t.fifo.rdPtr = (s.fifo.rdPtr + 1) % s.params.fifoDepth := by
  simp [hstep.fifo, Reference.fifo, hpop]

theorem count_of_not_pop (hpop : s.pop = false) :
    t.fifo.count = if s.push then s.fifo.count + 1 else s.fifo.count := by
  simp [hstep.fifo, Reference.fifo, hpop]

theorem count_of_pop (hpop : s.pop = true) :
    t.fifo.count = if s.push then s.fifo.count else s.fifo.count - 1 := by
  cases hpush : s.push <;> simp [hstep.fifo, Reference.fifo, hpop, hpush]

end SessionStep

/-! ## The synchroniser chains, cut to the `N` stages of R39 -/

theorem State.Inv.syncNext_bsync {s : State} (hs : s.Inv) :
    s.syncNext.bsync = (s.input.bclk :: s.sync.bsync).take s.params.syncStages :=
  congrArg (List.take · (s.input.bclk :: s.sync.bsync)) hs.bsync_length

theorem State.Inv.syncNext_wsync {s : State} (hs : s.Inv) :
    s.syncNext.wsync = (s.input.ws :: s.sync.wsync).take s.params.syncStages :=
  congrArg (List.take · (s.input.ws :: s.sync.wsync)) hs.wsync_length

/-! ## The obligations on the follower (spec/40_follower.md) -/

/-- Settles O20: with `run = 0` the follower's next registers are its registers (R130), and `syncNext` does not read `run` (R39). -/
theorem stoppedFollowerIsFrozen : Obligations.StoppedFollowerIsFrozen := by
  intro s hs hrst hrun
  have hpop := State.pop_eq_false_of_not_run hrun
  obtain ⟨t, ht, hstep⟩ := hs.exists_sessionStep hrst
  have hfollower : t.follower = s.follower := by rw [hstep.follower, Reference.follower_of_not_run _ hrun]
  refine ⟨selects_fHold hrun, hpop, t, ht, hfollower, hstep.rdPtr_of_not_pop hpop, ?_⟩
  rw [hstep.sync]
  exact ⟨rfl, hs.syncNext_bsync, hs.syncNext_wsync⟩

/-- Settles O21: nothing is popped from an empty FIFO, and a frame pushed in this step is counted only in the next (R83). -/
theorem starvedFollowerWaits : Obligations.StarvedFollowerWaits := by
  intro s hs hrst hrun hfsm hfv hcount
  have hne := State.fifoNe_eq_false_iff.mpr hcount
  have hpop := State.pop_eq_false_of_count_eq_zero hcount
  obtain ⟨t, ht, hstep⟩ := hs.exists_sessionStep hrst
  have hfollower : t.follower = s.follower := by
    rw [hstep.follower, Reference.follower_of_awl_starved _ hrun hfsm hfv hne]
  have hnext := hstep.count_of_not_pop hpop
  refine ⟨selects_awlStarve hrun hfsm hfv hne, State.starved_iff.mpr ⟨hfsm, hfv, hcount⟩, t, ht, hfollower,
    hstep.rdPtr_of_not_pop hpop, fun hpush => ?_, fun hpush => ?_⟩
  · rw [State.starved_iff, hfollower]
    exact ⟨hfsm, hfv, by simpa [hpush, hcount] using hnext⟩
  · exact State.starved_eq_false_of_count_ne_zero (by simp [hnext, hpush])

/-- Settles O22: the pop condition (R53) is that of the boundary with a frame waiting, and the frame popped is then held. -/
theorem frameIsPoppedAtTheBoundary : Obligations.FrameIsPoppedAtTheBoundary := by
  intro s hs hrst hrun hfsm hfv hcount
  have hne := State.fifoNe_iff.mpr hcount
  have hpop := State.pop_iff.mpr ⟨hrst, hrun, hfsm, hfv, hcount⟩
  obtain ⟨t, ht, hstep⟩ := hs.exists_sessionStep hrst
  have hheld : t.follower.frameValid = true := by rw [hstep.follower, Reference.follower_frameValid _ hrst, if_pos hpop]
  have hfollower := hstep.follower.trans (Reference.follower_of_awl_pop _ hrun hfsm hfv hne)
  have hnext := hstep.count_of_pop hpop
  refine ⟨selects_awlPop hrun hfsm hfv hne, selects_awlPopStart hrun hfsm hfv hne, hpop, t, ht,
    State.starved_eq_false_of_frameValid hheld, hstep.rdPtr_of_pop hpop, fun hpush => ?_, fun hpush => ?_,
    fun hws => ?_, fun hws => ?_⟩
  · simpa [hnext, hpush] using Nat.succ_pred hcount
  · simp [hnext, hpush]
  · rw [hfollower, hws]; rfl
  · rw [hfollower, hws]; rfl

/-- Settles O23: a held frame keeps `pop` at 0, and WS low alone starts the left channel. -/
theorem heldFrameWaitsForWsLow : Obligations.HeldFrameWaitsForWsLow := by
  intro s hs hrst hrun hfsm hfv
  obtain ⟨t, ht, hstep⟩ := hs.exists_sessionStep hrst
  have hfollower := hstep.follower.trans (Reference.follower_of_awl_held _ hrun hfsm hfv)
  refine ⟨selects_awlWait hrun hfsm hfv, selects_awlStart hrun hfsm hfv, t, ht,
    hstep.rdPtr_of_not_pop (State.pop_eq_false_of_frameValid hfv), fun hws => ?_, fun hws => ?_⟩
  · rw [hfollower, hws]; rfl
  · rw [hfollower, hws]; rfl

/-- Settles O24: in WaitRise only `rise` matters, in WaitFall only `fall`, and at a fall `idx` tells whether the word is over. -/
theorem leftChannelShiftsOnEdges : Obligations.LeftChannelShiftsOnEdges := by
  intro s hs hrst hrun hfsm
  have hpop : s.pop = false := State.pop_eq_false_of_fsm_ne_awl (by simp [hfsm])
  obtain ⟨t, ht, hstep⟩ := hs.exists_sessionStep hrst
  have hwaitRise := fun hphase => hstep.follower.trans (Reference.follower_of_sl_waitRise _ hrun hfsm hphase)
  have hwaitFall := fun hphase => hstep.follower.trans (Reference.follower_of_sl_waitFall _ hrun hfsm hphase)
  refine ⟨selects_slWaitRise hrun hfsm, selects_slPresent hrun hfsm, selects_slWaitFall hrun hfsm,
    fun hphase hfall hidx => selects_slNext hrun hfsm hphase hfall (State.idxZero_eq_false_iff.mpr hidx),
    fun hphase hfall hidx => selects_slLast hrun hfsm hphase hfall (State.idxZero_iff.mpr hidx),
    t, ht, hstep.rdPtr_of_not_pop hpop, fun hphase hrise => ?waitRise, fun hphase hrise => ?present,
    fun hphase hfall => ?waitFall, fun hphase hfall hidx => ?next, fun hphase hfall hidx => ?last⟩
  case waitRise | present => rw [hwaitRise hphase, hrise]; rfl
  case waitFall => rw [hwaitFall hphase, hfall]; rfl
  case next => rw [hwaitFall hphase, hfall, State.idxZero_eq_false_iff.mpr hidx]; rfl
  case last => rw [hwaitFall hphase, hfall, State.idxZero_iff.mpr hidx]; rfl

/-- Settles O25: in AwaitWordSelectHigh only WS matters (R144, R145). -/
theorem rightChannelWaitsForWsHigh : Obligations.RightChannelWaitsForWsHigh := by
  intro s hs hrst hrun hfsm
  have hpop : s.pop = false := State.pop_eq_false_of_fsm_ne_awl (by simp [hfsm])
  obtain ⟨t, ht, hstep⟩ := hs.exists_sessionStep hrst
  have hfollower := hstep.follower.trans (Reference.follower_of_awh _ hrun hfsm)
  refine ⟨selects_awhWait hrun hfsm, selects_awhStart hrun hfsm, t, ht, hstep.rdPtr_of_not_pop hpop,
    fun hws => ?_, fun hws => ?_⟩
  · rw [hfollower, hws]; rfl
  · rw [hfollower, hws]; rfl

/-- Settles O26: as in ShiftLeft, and after bit 0 no frame is held in AwaitWordSelectLow, so that `starved` is `count = 0` (R54). -/
theorem rightChannelShiftsOnEdges : Obligations.RightChannelShiftsOnEdges := by
  intro s hs hrst hrun hfsm
  have hpop : s.pop = false := State.pop_eq_false_of_fsm_ne_awl (by simp [hfsm])
  obtain ⟨t, ht, hstep⟩ := hs.exists_sessionStep hrst
  have hwaitRise := fun hphase => hstep.follower.trans (Reference.follower_of_sr_waitRise _ hrun hfsm hphase)
  have hwaitFall := fun hphase => hstep.follower.trans (Reference.follower_of_sr_waitFall _ hrun hfsm hphase)
  have hlast : s.follower.phase = .waitFall → s.fall = true → s.follower.idx = 0 →
      t.follower = (s.follower.leaveWord .awl).frameDone := fun hphase hfall hidx => by
    rw [hwaitFall hphase, if_pos hfall, if_pos (State.idxZero_iff.mpr hidx)]
  refine ⟨selects_srWaitRise hrun hfsm, selects_srPresent hrun hfsm, selects_srWaitFall hrun hfsm,
    fun hphase hfall hidx => selects_srNext hrun hfsm hphase hfall (State.idxZero_eq_false_iff.mpr hidx),
    fun hphase hfall hidx => selects_srLast hrun hfsm hphase hfall (State.idxZero_iff.mpr hidx),
    t, ht, hstep.rdPtr_of_not_pop hpop, fun hphase hrise => ?waitRise, fun hphase hrise => ?present,
    fun hphase hfall => ?waitFall, fun hphase hfall hidx => ?next, hlast, fun hphase hfall hidx => ⟨hpop, ?starved⟩⟩
  case waitRise | present => rw [hwaitRise hphase, hrise]; rfl
  case waitFall => rw [hwaitFall hphase, hfall]; rfl
  case next => rw [hwaitFall hphase, hfall, State.idxZero_eq_false_iff.mpr hidx]; rfl
  case starved => simp [State.starved_iff, hlast hphase hfall hidx]

end Sys2Proof.Machine

/-! SUPPORT. The ring buffer's registers and the status outputs after a push and after a pop (R171 to R174). -/

namespace Sys2Proof.Machine

/-! ## What a push finds (R53, R54) -/

namespace State

variable {s : State}

/-- A push accepts a byte, and the byte port is closed once end of stream was seen. -/
theorem eosSeen_eq_false_of_push (hpush : s.push = true) : s.assembler.eosSeen = false := by
  obtain ⟨haccept, -⟩ := push_iff.mp hpush
  obtain ⟨-, hready⟩ := accept_iff.mp haccept
  obtain ⟨-, heos, -⟩ := inReady_iff.mp hready
  exact heos

theorem sessionDone_eq_false_of_eosSeen_eq_false (heos : s.assembler.eosSeen = false) : s.sessionDone = false := by
  simp [sessionDone, heos]

theorem sessionDone_eq_false_of_count_ne_zero (hcount : s.fifo.count ≠ 0) : s.sessionDone = false := by
  simp [sessionDone, hcount]

end State

/-- The pointers of a ring buffer name one slot only where it is empty or full (R58). -/
theorem Fifo.Inv.wrPtr_ne_rdPtr {c : Nat} {q : Fifo} (h : q.Inv c) (hpos : 0 < q.count) (hroom : q.count < c) :
    q.wrPtr ≠ q.rdPtr := by
  have hhead : (q.rdPtr + 0) % c = q.rdPtr := Nat.mod_eq_of_lt h.rdPtr_lt
  exact hhead ▸ (h.live_slot_ne_wrPtr hroom hpos).symm

/-! ## The storage, the write pointer, the count and the frame after a step -/

namespace SessionStep

variable {s t : State} (hstep : SessionStep s t)
include hstep

theorem mem_of_not_push (hpush : s.push = false) : t.fifo.mem = s.fifo.mem := by
  simp [hstep.fifo, Reference.fifo, hpush]

theorem mem_of_push (hpush : s.push = true) : t.fifo.mem = s.fifo.mem.write s.fifo.wrPtr s.word := by
  simp [hstep.fifo, Reference.fifo, hpush]

theorem wrPtr_of_not_push (hpush : s.push = false) : t.fifo.wrPtr = s.fifo.wrPtr := by
  simp [hstep.fifo, Reference.fifo, hpush]

theorem wrPtr_of_push (hpush : s.push = true) : t.fifo.wrPtr = (s.fifo.wrPtr + 1) % s.params.fifoDepth := by
  simp [hstep.fifo, Reference.fifo, hpush]

/-- The count moves by the push less the pop. -/
theorem count_of_push_eq_pop (heq : s.push = s.pop) : t.fifo.count = s.fifo.count := by
  cases hpop : s.pop
  case false => simp [hstep.count_of_not_pop hpop, heq, hpop]
  case true => simp [hstep.count_of_pop hpop, heq, hpop]

/-- A pop that comes with the push met no empty FIFO, so something is queued after every push. -/
theorem count_ne_zero_of_push (hpush : s.push = true) : t.fifo.count ≠ 0 := by
  cases hpop : s.pop
  case false => simp [hstep.count_of_not_pop hpop, hpush]
  case true => simpa [hstep.count_of_pop hpop, hpush] using State.fifo_not_empty_of_pop hpop

theorem frame_of_pop (hrst : s.input.rst = false) (hpop : s.pop = true) :
    t.follower.frame = s.fifo.mem.read s.fifo.rdPtr := by
  rw [hstep.follower, Reference.follower_frame _ hrst, if_pos hpop]

theorem eosSeen_of_eosSeen (heos : s.assembler.eosSeen = true) : t.assembler.eosSeen = true := by
  rw [hstep.assembler, Reference.assembler_of_eosSeen heos, heos]

end SessionStep

/-! ## The obligation on the FIFO's operations (spec/41_fifo.md) -/

/-- Settles O27: the registers by what is pushed and popped, and the two slots differ because a push with a pop finds the FIFO neither
full nor empty. -/
theorem pushAndPopUpdateTheRingBuffer : Obligations.PushAndPopUpdateTheRingBuffer := by
  intro s hs hrst
  obtain ⟨-, -, -, -, hroom, hne⟩ := fifoSelectorIsPushAndPop s hs
  obtain ⟨t, ht, hstep⟩ := hs.exists_sessionStep hrst
  refine ⟨?selected, fun hpush hpop => ?slots, t, ht,
    fun hpush => ⟨hstep.mem_of_not_push hpush, hstep.wrPtr_of_not_push hpush⟩,
    fun hpush => ⟨?written, fun p hp => ?others, hstep.wrPtr_of_push hpush⟩, hstep.rdPtr_of_not_pop,
    fun hpop => ⟨hstep.rdPtr_of_pop hpop, hstep.frame_of_pop hrst hpop⟩, hstep.count_of_push_eq_pop,
    fun hpush hpop => ?pushOnly, fun hpush hpop => ?popOnly, fun hpush => ?status, fun hpush hpop heos hlast => ?done⟩
  case selected =>
    rw [decodeP_selP]
    cases s.push <;> cases s.pop <;> rfl
  case slots => exact ⟨hne hpop, hroom hpush, hs.fifo_inv.wrPtr_ne_rdPtr (hne hpop) (hroom hpush)⟩
  case written => rw [hstep.mem_of_push hpush, Memory.read_write_same]
  case others => rw [hstep.mem_of_push hpush, Memory.read_write_other _ _ hp]
  case pushOnly => simp [hstep.count_of_not_pop hpop, hpush]
  case popOnly => simpa [hstep.count_of_pop hpop, hpush] using Nat.sub_add_cancel (hne hpop)
  case status =>
    have hqueued := hstep.count_ne_zero_of_push hpush
    exact ⟨State.starved_eq_false_of_count_ne_zero hqueued,
      State.sessionDone_eq_false_of_eosSeen_eq_false (State.eosSeen_eq_false_of_push hpush),
      State.sessionDone_eq_false_of_count_ne_zero hqueued⟩
  case done =>
    have hempty : t.fifo.count = 0 := by simp [hstep.count_of_pop hpop, hpush, hlast]
    exact State.sessionDone_iff.mpr ⟨hstep.eosSeen_of_eosSeen heos, hempty⟩

end Sys2Proof.Machine

/-! SUPPORT. The byte port (spec/42_assembler.md) by its conditions: when it is closed, when an open port takes the byte offered, and what
a byte written to the carry buffer leaves of it. -/

namespace Sys2Proof.Machine

/-! ## When the byte port is closed and when it takes the byte offered (R53) -/

namespace State

variable {s : State}

theorem bcnt3_iff : s.bcnt3 = true ↔ s.assembler.bcnt = 3 := by
  simp [bcnt3]

theorem bcnt3_eq_false_iff : s.bcnt3 = false ↔ s.assembler.bcnt ≠ 3 := by
  simp [bcnt3]

theorem fifoNf_iff : s.fifoNf = true ↔ s.fifo.count ≠ s.params.fifoDepth := by
  simp [fifoNf]

theorem fifoNf_eq_false_iff : s.fifoNf = false ↔ s.fifo.count = s.params.fifoDepth := by
  simp [fifoNf]

theorem inReady_of_inEos (heo : s.input.inEos = true) : s.inReady = false := by
  simp [inReady, heo]

/-- An open byte port applies backpressure only to the fourth byte of a frame, where the FIFO is full. -/
theorem inReady_eq_false_iff_of_open (hrst : s.input.rst = false) (hes : s.assembler.eosSeen = false)
    (heo : s.input.inEos = false) :
    s.inReady = false ↔ s.assembler.bcnt = 3 ∧ s.fifo.count = s.params.fifoDepth := by
  simp [inReady, bcnt3, fifoNf, hrst, hes, heo]

theorem accept_eq_false_of_not_inReady (hready : s.inReady = false) : s.accept = false := by
  simp [accept, hready]

theorem accept_eq_false_of_not_inValid (hiv : s.input.inValid = false) : s.accept = false := by
  simp [accept, hiv]

theorem accept_of_open (hrst : s.input.rst = false) (hes : s.assembler.eosSeen = false) (heo : s.input.inEos = false)
    (hiv : s.input.inValid = true) (hroom : s.assembler.bcnt ≠ 3 ∨ s.fifo.count ≠ s.params.fifoDepth) :
    s.accept = true :=
  accept_iff.mpr ⟨hiv, inReady_iff.mpr ⟨hrst, hes, heo, hroom⟩⟩

theorem push_eq_false_of_not_accept (hacc : s.accept = false) : s.push = false := by
  simp [push, hacc]

theorem push_eq_false_of_bcnt_ne_three (hbcnt : s.assembler.bcnt ≠ 3) : s.push = false := by
  simp [push, bcnt3_eq_false_iff.mpr hbcnt]

end State

/-! ## A byte written to the carry buffer (R195) -/

theorem Carry.set_eq (c : Carry) (k : BitVec 2) (b : Byte) :
    c.set k b =
      { c0 := if k = 0 then b else c.c0, c1 := if k = 1 then b else c.c1, c2 := if k = 2 then b else c.c2 } := by
  have values : ∀ k : BitVec 2, k = 0 ∨ k = 1 ∨ k = 2 ∨ k = 3 := by decide
  rcases values k with rfl | rfl | rfl | rfl <;> rfl

/-! ## The assembler after a step -/

namespace SessionStep

variable {s t : State} (hstep : SessionStep s t)
include hstep

theorem assembler_of_not_accept (heo : s.input.inEos = false) (hacc : s.accept = false) :
    t.assembler = s.assembler := by
  rw [hstep.assembler, Reference.assembler_of_not_accept heo hacc]

/-- A byte of a frame but the fourth goes into the carry buffer (R195). -/
theorem assembler_of_accept (hacc : s.accept = true) (hbcnt : s.assembler.bcnt ≠ 3) :
    t.assembler = { s.assembler.countByte with
      carry := s.assembler.carry.set s.assembler.bcnt s.input.inByte
      bcnt := s.assembler.bcnt + 1 } := by
  rw [hstep.assembler, Reference.assembler_of_accept hacc, State.bcnt3_eq_false_iff.mpr hbcnt]
  rfl

/-- The fourth byte of a frame completes it (R196). -/
theorem assembler_of_push (hpush : s.push = true) : t.assembler = { s.assembler.countByte with bcnt := 0 } := by
  obtain ⟨hacc, hbcnt⟩ := State.push_iff.mp hpush
  rw [hstep.assembler, Reference.assembler_of_accept hacc, if_pos (State.bcnt3_iff.mpr hbcnt)]

theorem count_of_push (hpush : s.push = true) :
    t.fifo.count = if s.pop then s.fifo.count else s.fifo.count + 1 := by
  cases hpop : s.pop
  case false => simp [hstep.count_of_not_pop hpop, hpush]
  case true => simp [hstep.count_of_pop hpop, hpush]

end SessionStep

/-- A push selects one of the two appending operations (R172, R174). -/
theorem decodeP_selP_of_push {s : State} (hpush : s.push = true) :
    decodeP s.selP = .fifoPush ∨ decodeP s.selP = .fifoPushPop := by
  rw [decodeP_selP, hpush]
  cases s.pop
  case false => exact .inl rfl
  case true => exact .inr rfl

/-! ## The obligations on the assembler (spec/42_assembler.md) -/

/-- Settles O28: `eos_seen` and `in_eos` each hold `in_ready`, and with it `push`, at 0. -/
theorem endOfStreamClosesTheBytePort : Obligations.EndOfStreamClosesTheBytePort := by
  intro s hs hrst
  obtain ⟨t, ht, hstep⟩ := hs.exists_sessionStep hrst
  have hnopush : s.inReady = false → s.push = false := fun hready =>
    State.push_eq_false_of_not_accept (State.accept_eq_false_of_not_inReady hready)
  refine ⟨fun hes => ?closed, fun hes heo => ?eos⟩
  case closed =>
    have hready := State.inReady_of_eosSeen hes
    exact ⟨selects_aClosed hes, hready, hnopush hready, fun hcount => State.sessionDone_iff.mpr ⟨hes, hcount⟩, t, ht,
      hstep.assembler.trans (Reference.assembler_of_eosSeen hes)⟩
  case eos =>
    have hready := State.inReady_of_inEos heo
    have hassembler := hstep.assembler.trans (Reference.assembler_of_inEos hes heo)
    refine ⟨selects_aEos hes heo, hready, hnopush hready, t, ht, hassembler,
      hstep.mem_of_not_push (hnopush hready), ?_⟩
    simp [State.sessionDone_iff, hassembler]

/-- Settles O29: the byte offered is taken unless it is the fourth of its frame and the FIFO is full (R53), whether or not this step
pops. -/
theorem openBytePortPacksFrames : Obligations.OpenBytePortPacksFrames := by
  intro s hs hrst hes heo
  obtain ⟨t, ht, hstep⟩ := hs.exists_sessionStep hrst
  have hblocked := State.inReady_eq_false_iff_of_open hrst hes heo
  refine ⟨t, ht, fun hiv => ?idle, fun hiv hbcnt => ?accept, fun hiv hbcnt hroom => ?complete,
    fun hiv hbcnt hfull => ?stall⟩
  case idle =>
    have hacc := State.accept_eq_false_of_not_inValid hiv
    exact ⟨selects_aIdle hes heo hiv, hstep.assembler_of_not_accept heo hacc, State.push_eq_false_of_not_accept hacc,
      hblocked⟩
  case accept =>
    have hacc := State.accept_of_open hrst hes heo hiv (.inl hbcnt)
    refine ⟨selects_aAccept hes heo hiv (State.bcnt3_eq_false_iff.mpr hbcnt), hacc,
      State.push_eq_false_of_bcnt_ne_three hbcnt, ?_⟩
    rw [hstep.assembler_of_accept hacc hbcnt, Carry.set_eq]
    exact ⟨rfl, hes, rfl, rfl, rfl, rfl⟩
  case complete =>
    have hacc := State.accept_of_open hrst hes heo hiv (.inr hroom)
    have hpush := State.push_iff.mpr ⟨hacc, hbcnt⟩
    refine ⟨selects_aComplete hes heo hiv (State.bcnt3_iff.mpr hbcnt) (State.fifoNf_iff.mpr hroom), hacc, hpush,
      decodeP_selP_of_push hpush, hstep.assembler_of_push hpush, ?_, hstep.count_of_push hpush⟩
    rw [hstep.mem_of_push hpush, Memory.read_write_same]
    rfl
  case stall =>
    have hready := hblocked.mpr ⟨hbcnt, hfull⟩
    have hacc := State.accept_eq_false_of_not_inReady hready
    exact ⟨selects_aStall hes heo hiv (State.bcnt3_iff.mpr hbcnt) (State.fifoNf_eq_false_iff.mpr hfull), hready,
      State.push_eq_false_of_not_accept hacc, hstep.assembler_of_not_accept heo hacc⟩

end Sys2Proof.Machine

/-! SUPPORT. What keeps a run going (R210): a step can stop only at a pointer that names no slot, and a sound ring buffer (R58), which has
no such pointer, is sound after every step, be it a session step or a reset. So the ring buffer's part of the invariant is enough here. -/

namespace Sys2Proof.Machine

/-- RESET leaves a sound ring buffer sound, whatever slots were written before: no slot is live (R178, R240). -/
theorem Fifo.Inv.resetKeeping {c : Nat} {q : Fifo} (h : q.Inv c) : (Fifo.resetKeeping q.mem).Inv c where
  rdPtr_lt := Nat.zero_lt_of_lt h.rdPtr_lt
  wrPtr_eq := (Nat.zero_mod c).symm
  count_le := Nat.zero_le c
  live_written _ hk := absurd hk (Nat.not_lt_zero _)
  mem_wf := h.mem_wf

section Progress

variable {s t : State}

theorem runFor_succ (n : Nat) (h : step s = .next t) : runFor (n + 1) s = runFor n t := by
  simp [runFor, h]

variable (hq : s.fifo.Inv s.params.fifoDepth)
include hq

theorem ResetStep.fifo_inv (hstep : ResetStep s t) : t.fifo.Inv t.params.fifoDepth := by
  rw [hstep.params, hstep.fifo]
  exact hq.resetKeeping

/-- A sound ring buffer is all that STEP needs to answer a next state. -/
theorem exists_sessionStep_of_fifo_inv (hrst : s.input.rst = false) : ∃ t, step s = .next t ∧ SessionStep s t := by
  have ht := step_of_not_rst hrst
  rw [execStep_eq_reference hrst hq.rdPtr_lt hq.wrPtr_lt, consumed_next] at ht
  exact ⟨_, ht, .of_step hq hrst ht⟩

/-- On every input vector, a state with a sound ring buffer steps to one with a sound ring buffer. -/
theorem exists_step_fifo_inv : ∃ t, step s = .next t ∧ t.fifo.Inv t.params.fifoDepth := by
  cases hrst : s.input.rst
  case false =>
    obtain ⟨t, ht, hsession⟩ := exists_sessionStep_of_fifo_inv hq hrst
    exact ⟨t, ht, hsession.fifo_inv hq⟩
  case true =>
    obtain ⟨t, ht, hreset⟩ := exists_resetStep hrst
    exact ⟨t, ht, hreset.fifo_inv hq⟩

/-- From a sound ring buffer, a run of any length completes, and ends with a sound ring buffer. -/
theorem exists_runFor_fifo_inv (n : Nat) : ∃ t, runFor n s = .next t ∧ t.fifo.Inv t.params.fifoDepth := by
  induction n generalizing s with
  | zero => exact ⟨s, rfl, hq⟩
  | succ n ih =>
    obtain ⟨u, hu, hqu⟩ := exists_step_fifo_inv hq
    rw [runFor_succ n hu]
    exact ih hqu

end Progress

/-! ## The obligation on stops (spec/60_exceptions.md) -/

/-- Settles O34: the ring buffer is sound after reset, so a run of any length completes, whatever resets its input vectors ask for. -/
theorem noReachableStateStops : Obligations.NoReachableStateStops := by
  intro p is n hp
  obtain ⟨hdepth, -⟩ := params_wellFormed_iff.mp hp
  have hq : (freshWith p is).fifo.Inv (freshWith p is).params.fifoDepth := Fifo.inv_reset hdepth
  obtain ⟨t, ht, -⟩ := exists_runFor_fifo_inv hq n
  exact ⟨t, ht⟩

end Sys2Proof.Machine

/-! SUPPORT. The signals of a reset step: `rst` closes the byte port and holds the pop condition at 0 (R53). -/

namespace Sys2Proof.Machine

namespace State

variable {s : State}

theorem inReady_eq_false_of_rst (hrst : s.input.rst = true) : s.inReady = false := by
  simp [inReady, hrst]

theorem pop_eq_false_of_rst (hrst : s.input.rst = true) : s.pop = false := by
  simp [pop, hrst]

end State

/-! ## The obligation on reset (spec/70_reset_and_hazards.md) -/

/-- Settles O19: RESET is the record of reset values by definition; with `rst = 1` the closed byte port accepts no byte, so that none
completes a frame to push. -/
theorem resetLoadsEveryResetValue : Obligations.ResetLoadsEveryResetValue := by
  intro s
  refine ⟨rfl, fun hrst => ?_⟩
  have hstep : step s = consumed (exec .reset s) := congrArg (fun i => consumed (exec i s)) (fetch_of_rst hrst)
  have hready := State.inReady_eq_false_of_rst hrst
  have hacc := State.accept_eq_false_of_not_inReady hready
  exact ⟨hstep, hready, hacc, State.push_eq_false_of_not_accept hacc, State.pop_eq_false_of_rst hrst⟩

end Sys2Proof.Machine

/-! SUPPORT. The selectors as bytes and as rows (spec/30_encoding.md): a selector word laid out in bytes decodes as the word, the decoder and
the encoder are inverse on the words of each table, and a follower selector value meets one row. -/

namespace Sys2Proof

/-! ## A selector word laid out in bytes -/

/-- The byte that a selector word, widened to the encoder's width, is laid out in. -/
theorem ofNat_toNat_setWidth {k : Nat} (w : BitVec k) :
    BitVec.ofNat 8 (w.setWidth 10).toNat = w.setWidth 8 := by
  rw [BitVec.ofNat_toNat, BitVec.setWidth_setWidth_of_le]
  omega

/-- The two bytes of a follower selector word. -/
theorem layout_follower (f : BitVec 10) :
    layout .follower f.toNat = [f.extractLsb' 0 8, (f.extractLsb' 8 2).setWidth 8] := by
  have hlow : BitVec.ofNat 8 f.toNat = f.extractLsb' 0 8 := by
    rw [BitVec.ofNat_toNat, BitVec.setWidth_eq_extractLsb' (by omega)]
  have hhigh : BitVec.ofNat 8 (f.toNat / 256) = (f.extractLsb' 8 2).setWidth 8 := by
    apply BitVec.eq_of_toNat_eq
    simp [Nat.shiftRight_eq_div_pow]
    omega
  rw [layout, hlow, hhigh]

/-- A byte whose bits from `k` on are 0 is the word of its `k` low bits. -/
theorem setWidth_extractLsb'_of_padding {k m : Nat} {b : Byte} (hkm : k + m = 8) (h : b.extractLsb' k m = 0) :
    (b.extractLsb' 0 k).setWidth 8 = b := by
  apply BitVec.eq_of_getLsbD_eq
  intro j hj
  by_cases hjk : j < k
  · simp [hj, hjk]
  · have hbit := congrArg (·.getLsbD (j - k)) h
    have hpos : k + (j - k) = j := by omega
    have hlt : j - k < m := by omega
    simp only [BitVec.getLsbD_extractLsb', hpos, hlt] at hbit
    simpa [hjk] using hbit

theorem decode_layout_global (g : BitVec 1) : decode .global (layout .global g.toNat) = .ok (decodeG g) := by
  revert g; decide

theorem decode_layout_assembler (a : BitVec 5) : decode .assembler (layout .assembler a.toNat) = decodeA a := by
  revert a; decide

theorem decode_layout_fifo (p : BitVec 2) : decode .fifo (layout .fifo p.toNat) = .ok (decodeP p) := by
  revert p; decide

theorem decode_layout_follower (f : BitVec 10) : decode .follower (layout .follower f.toNat) = decodeF f := by
  have hpadding : ((f.extractLsb' 8 2).setWidth 8 : Byte).extractLsb' 2 6 = 0 := by
    revert f; decide +kernel
  have hword : ((f.extractLsb' 8 2).setWidth 8 : Byte).extractLsb' 0 2 ++ f.extractLsb' 0 8 = f := by
    revert f; decide +kernel
  rw [layout_follower, decode, if_pos hpadding, hword]

/-! ## What the decoder answers on the words of a table -/

/-- The follower's decoder answers a well-formed operation of its table, whose word is the selector value. -/
theorem word_of_decodeF {f : BitVec 10} {i : Instr} (h : decodeF f = .ok i) :
    i.wellFormed = true ∧ i.format = .follower ∧ i.word = f := by
  have key : ∀ f : BitVec 10, ∀ i ∈ (decodeF f).toOption, i.wellFormed = true ∧ i.format = .follower ∧ i.word = f := by
    decide +kernel
  exact key f i (by rw [h]; rfl)

theorem word_of_decodeA {a : BitVec 5} {i : Instr} (h : decodeA a = .ok i) :
    i.wellFormed = true ∧ i.format = .assembler ∧ i.word = a.setWidth 10 := by
  have key : ∀ a : BitVec 5, ∀ i ∈ (decodeA a).toOption,
      i.wellFormed = true ∧ i.format = .assembler ∧ i.word = a.setWidth 10 := by decide
  exact key a i (by rw [h]; rfl)

theorem word_decodeG (g : BitVec 1) :
    (decodeG g).wellFormed = true ∧ (decodeG g).format = .global ∧ (decodeG g).word = g.setWidth 10 := by
  revert g; decide

theorem word_decodeP (p : BitVec 2) :
    (decodeP p).wellFormed = true ∧ (decodeP p).format = .fifo ∧ (decodeP p).word = p.setWidth 10 := by
  revert p; decide

/-- Every follower selector value that is not reserved decodes (R105). -/
theorem decodeF_ok {f : BitVec 10} (h : f &&& 0x006 ≠ 0x006) : ∃ i, decodeF f = .ok i := by
  have key : ∀ f : BitVec 10, f &&& 0x006 ≠ 0x006 → (decodeF f).toOption.isSome = true := by decide +kernel
  have hsome := key f h
  cases hd : decodeF f with
  | ok i => exact ⟨i, rfl⟩
  | error e => simp [hd, Except.toOption] at hsome

/-! ## The word an operation encodes to decodes to it -/

/-- A well-formed follower operation, whose word is none of those that R106 reserves, decodes from that word. -/
theorem decodeF_word {i : Instr} (hfmt : i.format = .follower) (hwf : i.wellFormed = true) : decodeF i.word = .ok i := by
  cases i
  case fHold x => revert x; decide +kernel
  case awhWait x | awhStart x => revert x; decide +kernel
  case awlStarve x | awlWait x | awlStart x => revert x; decide +kernel
  case slWaitRise x | slPresent x | slWaitFall x | srWaitRise x | srPresent x | srWaitFall x => revert x; decide +kernel
  case awlPop x | awlPopStart x | slNext x | slLast x | srNext x | srLast x => revert x; decide +kernel
  all_goals cases hfmt

theorem decode_encode_of_assembler {i : Instr} (hfmt : i.format = .assembler) : decode .assembler (encode i) = .ok i := by
  cases i
  case aClosed x | aEos x | aIdle x | aAccept x => revert x; decide
  case aComplete | aStall => decide
  all_goals cases hfmt

theorem decode_encode_of_global {i : Instr} (hfmt : i.format = .global) : decode .global (encode i) = .ok i := by
  cases i
  case reset | step => decide
  all_goals cases hfmt

theorem decode_encode_of_fifo {i : Instr} (hfmt : i.format = .fifo) : decode .fifo (encode i) = .ok i := by
  cases i
  case fifoIdle | fifoPush | fifoPop | fifoPushPop => decide
  all_goals cases hfmt

/-! ## The rows of the follower's table (R104, R105) -/

/-- One operation for each row of the follower's table, in the table's order. -/
def followerOps : List Instr :=
  [.fHold 0, .awlStarve 0, .awlPop 0, .awlPopStart 0, .awlWait 0, .awlStart 0, .slWaitRise 0, .slPresent 0, .slWaitFall 0,
    .slNext 0, .slLast 0, .awhWait 0, .awhStart 0, .srWaitRise 0, .srPresent 0, .srWaitFall 0, .srNext 0, .srLast 0]

theorem format_of_mem_followerOps {i : Instr} (h : i ∈ followerOps) : i.format = .follower := by
  revert i; decide

/-- Every follower operation stands in the row of one of `followerOps`. -/
theorem exists_followerOp_row {j : Instr} (hfmt : j.format = .follower) :
    ∃ i ∈ followerOps, j.rowMask = i.rowMask ∧ j.rowMatch = i.rowMatch := by
  have hany : (followerOps.any fun i => decide (j.rowMask = i.rowMask ∧ j.rowMatch = i.rowMatch)) = true := by
    cases j
    case fHold | awlStarve | awlPop | awlPopStart | awlWait | awlStart => rfl
    case slWaitRise | slPresent | slWaitFall | slNext | slLast | awhWait | awhStart => rfl
    case srWaitRise | srPresent | srWaitFall | srNext | srLast => rfl
    all_goals cases hfmt
  obtain ⟨i, hi, hrow⟩ := List.any_eq_true.mp hany
  exact ⟨i, hi, of_decide_eq_true hrow⟩

/-- Every selector value meets a row, the reserved ones included (C8). -/
theorem exists_followerOp_of_selector (f : BitVec 10) : ∃ i ∈ followerOps, f &&& i.rowMask = i.rowMatch := by
  revert f; decide +kernel

/-- Two rows that agree in the bits that both test are one row. -/
theorem followerOps_row_eq_of_agree {i j : Instr} (hi : i ∈ followerOps) (hj : j ∈ followerOps)
    (h : i.rowMatch &&& j.rowMask = j.rowMatch &&& i.rowMask) : j.rowMask = i.rowMask ∧ j.rowMatch = i.rowMatch := by
  have key : ∀ i ∈ followerOps, ∀ j ∈ followerOps, i.rowMatch &&& j.rowMask = j.rowMatch &&& i.rowMask →
      j.rowMask = i.rowMask ∧ j.rowMatch = i.rowMatch := by decide +kernel
  exact key i hi j hj h

/-- The operations whose rows one selector value meets stand in one row. -/
theorem followerRow_unique {f : BitVec 10} {i j : Instr} (hi : i ∈ followerOps) (hjfmt : j.format = .follower)
    (hirow : f &&& i.rowMask = i.rowMatch) (hjrow : f &&& j.rowMask = j.rowMatch) :
    j.rowMask = i.rowMask ∧ j.rowMatch = i.rowMatch := by
  obtain ⟨j', hj', hmask, hmatch⟩ := exists_followerOp_row hjfmt
  rw [hmask, hmatch] at hjrow ⊢
  exact followerOps_row_eq_of_agree hi hj' (by rw [← hirow, ← hjrow]; ac_rfl)

/-- A selector value meets the row of the operation it decodes to. -/
theorem row_of_decodeF {f : BitVec 10} {i : Instr} (h : decodeF f = .ok i) : f &&& i.rowMask = i.rowMatch := by
  have key : ∀ f : BitVec 10, ∀ i ∈ (decodeF f).toOption, f &&& i.rowMask = i.rowMatch := by decide +kernel
  exact key f i (by rw [h]; rfl)

/-! ## The bytes an operation encodes to -/

/-- An operation of a one-byte table, whose word is that of the low bits of a byte with clear padding, encodes to that byte. -/
theorem encode_eq_byte {k m : Nat} {b : Byte} {i : Instr} (hfmt : i.format ≠ .follower) (hkm : k + m = 8)
    (hpadding : b.extractLsb' k m = 0) (hword : i.word = (b.extractLsb' 0 k).setWidth 10) : encode i = [b] := by
  have hlayout : ∀ w, layout i.format w = [BitVec.ofNat 8 w] := by
    cases h : i.format
    case follower => exact absurd h hfmt
    case global | assembler | fifo => exact fun _ => rfl
  rw [encode, hlayout, hword, ofNat_toNat_setWidth, setWidth_extractLsb'_of_padding hkm hpadding]

/-- A follower operation whose word is made of the bytes `b1`, with clear padding, and `b0` encodes to them. -/
theorem encode_eq_two_bytes {b0 b1 : Byte} {i : Instr} (hfmt : i.format = .follower)
    (hpadding : b1.extractLsb' 2 6 = 0) (hword : i.word = b1.extractLsb' 0 2 ++ b0) : encode i = [b0, b1] := by
  rw [encode, hfmt, hword, layout_follower, BitVec.extractLsb'_append_eq_right, BitVec.extractLsb'_append_eq_left,
    setWidth_extractLsb'_of_padding rfl hpadding]

/-! ## The obligations on the encoding (spec/30_encoding.md) -/

/-- Settles O2: table by table, from the word that the bytes lay out. -/
theorem encodedInstructionsDecodeBack : Obligations.EncodedInstructionsDecodeBack := by
  intro i hwf
  cases hfmt : i.format with
  | global => exact decode_encode_of_global hfmt
  | follower => rw [encode, hfmt, decode_layout_follower, decodeF_word hfmt hwf]
  | assembler => exact decode_encode_of_assembler hfmt
  | fifo => exact decode_encode_of_fifo hfmt

/-- Settles O3: the accepted bytes have clear padding, so they lay out the selector value decoded, which is the word of the operation
answered. -/
theorem decodedBytesEncodeBack : Obligations.DecodedBytesEncodeBack := by
  intro fmt bytes i h
  unfold decode at h
  split at h
  case h_1 b =>
    split_ifs at h with hpadding
    obtain rfl := Except.ok.inj h
    obtain ⟨hwf, hfmt, hword⟩ := word_decodeG (b.extractLsb' 0 1)
    exact ⟨hwf, hfmt, encode_eq_byte (by simp [hfmt]) rfl hpadding hword⟩
  case h_2 b0 b1 =>
    split_ifs at h with hpadding
    obtain ⟨hwf, hfmt, hword⟩ := word_of_decodeF h
    exact ⟨hwf, hfmt, encode_eq_two_bytes hfmt hpadding hword⟩
  case h_3 b =>
    split_ifs at h with hpadding
    obtain ⟨hwf, hfmt, hword⟩ := word_of_decodeA h
    exact ⟨hwf, hfmt, encode_eq_byte (by simp [hfmt]) rfl hpadding hword⟩
  case h_4 b =>
    split_ifs at h with hpadding
    obtain rfl := Except.ok.inj h
    obtain ⟨hwf, hfmt, hword⟩ := word_decodeP (b.extractLsb' 0 2)
    exact ⟨hwf, hfmt, encode_eq_byte (by simp [hfmt]) rfl hpadding hword⟩
  case h_5 => cases h

/-- Settles O4: two follower rows differ in a bit that both test, and the decoder refuses the reserved values before it looks at the
rows. -/
theorem followerSelectorMatchesExactlyOneRow : Obligations.FollowerSelectorMatchesExactlyOneRow := by
  intro f
  refine ⟨?_, fun hreserved => ?_, fun hformable => ?_⟩
  · obtain ⟨i, hi, hirow⟩ := exists_followerOp_of_selector f
    exact ⟨i, format_of_mem_followerOps hi, hirow, fun j hjfmt hjrow => followerRow_unique hi hjfmt hirow hjrow⟩
  · exact if_pos hreserved
  · obtain ⟨i, hi⟩ := decodeF_ok hformable
    obtain ⟨-, hfmt, -⟩ := word_of_decodeF hi
    exact ⟨i, hi, hfmt, row_of_decodeF hi⟩

/-- Settles O13: no state forms a reserved follower selector (R51), and the decoder answers operations of the selector's table. -/
theorem everyStateSelectsOneOperationPerTable : Obligations.EveryStateSelectsOneOperationPerTable := by
  intro s
  obtain ⟨f, hf⟩ := decodeF_ok (Machine.selF_not_reserved s)
  obtain ⟨a, ha⟩ := Machine.decodeA_ok s.selA
  obtain ⟨hfwf, hffmt, -⟩ := word_of_decodeF hf
  obtain ⟨-, hafmt, -⟩ := word_of_decodeA ha
  obtain ⟨-, hpfmt, -⟩ := word_decodeP s.selP
  rw [decode_layout_follower, decode_layout_assembler, decode_layout_fifo]
  exact ⟨f, a, _, hf, hffmt, hfwf, ha, hafmt, rfl, hpfmt⟩

/-- Settles O1: the eleven words, decoded. -/
theorem selectorWordsDecodeToTheirRows : Obligations.SelectorWordsDecodeToTheirRows := by
  unfold Obligations.SelectorWordsDecodeToTheirRows
  decide

end Sys2Proof

/-! SUPPORT. The operations alone (spec/30_encoding.md R111, sections 40 to 42 of the spec), and a step from any state at all: where it stops, and
what it leaves in the registers where it does not. -/

namespace Sys2Proof.Machine

/-! ## Each operation writes the registers of its own sub-block -/

theorem exec_frame_of_follower {i : Instr} {s t : State} (hfmt : i.format = .follower) (h : exec i s = .next t) :
    t = s.setFollower t.follower := by
  cases i
  case fHold | awlStarve | awlWait | slWaitRise | slWaitFall | awhWait | srWaitRise | srWaitFall => cases h; rfl
  case awlStart | slPresent | slNext | slLast | awhStart | srPresent | srNext | srLast => cases h; rfl
  case awlPop | awlPopStart =>
    obtain ⟨-, rfl⟩ := withHead_eq_next h
    rfl
  all_goals cases hfmt

theorem exec_frame_of_fifo {i : Instr} {s t : State} (hfmt : i.format = .fifo) (h : exec i s = .next t) :
    t = s.setFifo t.fifo := by
  cases i
  case fifoIdle | fifoPop => cases h; rfl
  case fifoPush | fifoPushPop =>
    obtain ⟨-, rfl⟩ := withPushed_eq_next h
    rfl
  all_goals cases hfmt

theorem exec_frame_of_assembler {i : Instr} {s t : State} (hfmt : i.format = .assembler) (h : exec i s = .next t) :
    t = s.setAssembler t.assembler := by
  cases i
  case aClosed | aEos | aIdle | aAccept | aComplete | aStall => cases h; rfl
  all_goals cases hfmt

/-! ## STEP performs what `exec` performs (R100) -/

theorem performFollower_eq_exec {i : Instr} (s : State) (hfmt : i.format = .follower) :
    performFollower i s = exec i s := by
  cases i
  case fHold | awlStarve | awlPop | awlPopStart | awlWait | awlStart => rfl
  case slWaitRise | slPresent | slWaitFall | slNext | slLast | awhWait | awhStart => rfl
  case srWaitRise | srPresent | srWaitFall | srNext | srLast => rfl
  all_goals cases hfmt

theorem performFifo_eq_exec {i : Instr} (s : State) (hfmt : i.format = .fifo) : performFifo i s = exec i s := by
  cases i
  case fifoIdle | fifoPush | fifoPop | fifoPushPop => rfl
  all_goals cases hfmt

theorem performAssembler_eq_exec {i : Instr} (s : State) (hfmt : i.format = .assembler) :
    performAssembler i s = exec i s := by
  cases i
  case aClosed | aEos | aIdle | aAccept | aComplete | aStall => rfl
  all_goals cases hfmt

/-! ## A step from any state: pointers that name no slot stop it where they are used, and nothing else does -/

section AnyState

variable {s t : State}

/-- A follower that pops nothing does not read the FIFO, so `rd_ptr` may name no slot. -/
theorem performFollower_selected_of_not_pop (hrst : s.input.rst = false) (hpop : s.pop = false) (w : FrameWord) :
    ∃ f, decodeF s.selF = .ok f ∧ performFollower f s = .next (s.setFollower (Reference.follower s w)) := by
  cases hrun : s.input.run
  case false =>
    obtain ⟨x, hx⟩ := selects_fHold hrun
    rw [Reference.follower_of_not_run _ hrun]
    exact ⟨_, hx, rfl⟩
  case true =>
  cases hfsm : s.follower.fsm
  case sl => exact performFollower_selected_sl w hrun hfsm
  case awh => exact performFollower_selected_awh w hrun hfsm
  case sr => exact performFollower_selected_sr w hrun hfsm
  case awl =>
  cases hfv : s.follower.frameValid
  case false =>
    have hne : s.fifoNe = false := by simpa [State.pop, hrst, hrun, hfsm, hfv] using hpop
    obtain ⟨x, hx⟩ := selects_awlStarve hrun hfsm hfv hne
    rw [Reference.follower_of_awl_starved _ hrun hfsm hfv hne]
    exact ⟨_, hx, rfl⟩
  case true =>
    rw [Reference.follower_of_awl_held _ hrun hfsm hfv]
    cases hws : s.wsS
    · obtain ⟨x, hx⟩ := selects_awlStart hrun hfsm hfv hws
      exact ⟨_, hx, rfl⟩
    · obtain ⟨x, hx⟩ := selects_awlWait hrun hfsm hfv hws
      exact ⟨_, hx, rfl⟩

theorem performFollower_selected_of_slot (hrst : s.input.rst = false)
    (hrd : s.pop = true → s.fifo.rdPtr < s.params.fifoDepth) : ∃ f, decodeF s.selF = .ok f ∧
      performFollower f s = .next (s.setFollower (Reference.follower s (s.fifo.mem.read s.fifo.rdPtr))) := by
  cases hpop : s.pop
  case false => exact performFollower_selected_of_not_pop hrst hpop _
  case true => exact performFollower_selected (hrd hpop)

theorem performFollower_selected_fault (hpop : s.pop = true) (hptr : ¬s.fifo.rdPtr < s.params.fifoDepth) :
    ∃ f, decodeF s.selF = .ok f ∧ performFollower f s = .fault .noSuchSlot := by
  obtain ⟨-, hrun, hfsm, hfv, hcount⟩ := State.pop_iff.mp hpop
  have hne := State.fifoNe_iff.mpr hcount
  cases hws : s.wsS
  · obtain ⟨x, hx⟩ := selects_awlPopStart hrun hfsm hfv hne hws
    exact ⟨_, hx, withHead_of_not_lt _ hptr⟩
  · obtain ⟨x, hx⟩ := selects_awlPop hrun hfsm hfv hne hws
    exact ⟨_, hx, withHead_of_not_lt _ hptr⟩

theorem performFifo_selected_of_not_push (hpush : s.push = false) :
    performFifo (decodeP s.selP) s = .next (s.setFifo (Reference.fifo s)) := by
  rw [decodeP_selP, Reference.fifo, hpush]
  cases s.pop <;> rfl

theorem performFifo_selected_fault (hpush : s.push = true) (hptr : ¬s.fifo.wrPtr < s.params.fifoDepth) :
    performFifo (decodeP s.selP) s = .fault .noSuchSlot := by
  rw [decodeP_selP, hpush]
  cases s.pop
  · exact withPushed_of_not_lt _ hptr
  · exact withPushed_of_not_lt _ hptr

/-- The pointers that this step uses name slots (R42, R43). -/
def State.SlotsNamed (s : State) : Prop :=
  (s.pop = true → s.fifo.rdPtr < s.params.fifoDepth) ∧ (s.push = true → s.fifo.wrPtr < s.params.fifoDepth)

/-- STEP where the pointers used name slots: the block of the reference description. -/
theorem execStep_of_slotsNamed (hrst : s.input.rst = false) (hslots : s.SlotsNamed) :
    execStep s = .next { s with
      follower := Reference.follower s (s.fifo.mem.read s.fifo.rdPtr)
      fifo := Reference.fifo s
      assembler := Reference.assembler s
      sync := s.syncNext } := by
  obtain ⟨hrd, hwr⟩ := hslots
  obtain ⟨f, hf, hfollower⟩ := performFollower_selected_of_slot hrst hrd
  have hfifo : performFifo (decodeP s.selP) s = .next (s.setFifo (Reference.fifo s)) := by
    cases hpush : s.push
    case false => exact performFifo_selected_of_not_push hpush
    case true => exact performFifo_selected (hwr hpush)
  obtain ⟨a, ha, hassembler⟩ := performAssembler_selected hrst
  simp [execStep, hf, ha, hfollower, hassembler, hfifo]

/-- STEP where a pointer used names no slot. -/
theorem execStep_of_not_slotsNamed (hrst : s.input.rst = false) (hslots : ¬s.SlotsNamed) :
    execStep s = .fault .noSuchSlot := by
  obtain ⟨a, ha, hassembler⟩ := performAssembler_selected hrst
  by_cases hrd : s.pop = true → s.fifo.rdPtr < s.params.fifoDepth
  case pos =>
    obtain ⟨hpush, hwr⟩ := Classical.not_imp.mp fun hwr => hslots ⟨hrd, hwr⟩
    obtain ⟨f, hf, hfollower⟩ := performFollower_selected_of_slot hrst hrd
    simp [execStep, hf, ha, hfollower, hassembler, performFifo_selected_fault hpush hwr, State.merge]
  case neg =>
    obtain ⟨hpop, hrd⟩ := Classical.not_imp.mp hrd
    obtain ⟨f, hf, hfollower⟩ := performFollower_selected_fault hpop hrd
    simp [execStep, hf, ha, hfollower, State.merge]

theorem step_of_slotsNamed (hrst : s.input.rst = false) (hslots : s.SlotsNamed) :
    step s = .next { s with
      follower := Reference.follower s (s.fifo.mem.read s.fifo.rdPtr)
      fifo := Reference.fifo s
      assembler := Reference.assembler s
      sync := s.syncNext }.consume := by
  rw [step_of_not_rst hrst, execStep_of_slotsNamed hrst hslots, consumed_next]

theorem step_of_not_slotsNamed (hrst : s.input.rst = false) (hslots : ¬s.SlotsNamed) :
    step s = .fault .noSuchSlot := by
  rw [step_of_not_rst hrst, execStep_of_not_slotsNamed hrst hslots, consumed_fault]

/-- Every step with `rst = 0` that completes is a session step, whatever state it starts from. -/
theorem SessionStep.of_next (hrst : s.input.rst = false) (ht : step s = .next t) : SessionStep s t := by
  by_cases hslots : s.SlotsNamed
  case pos =>
    rw [step_of_slotsNamed hrst hslots] at ht
    obtain rfl := Host.Outcome.next.inj ht
    constructor <;> simp
  case neg =>
    rw [step_of_not_slotsNamed hrst hslots] at ht
    cases ht

theorem ResetStep.of_next (hrst : s.input.rst = true) (ht : step s = .next t) : ResetStep s t := by
  obtain ⟨u, hu, hreset⟩ := exists_resetStep hrst
  obtain rfl := Host.Outcome.next.inj (hu.symm.trans ht)
  exact hreset

/-- The two kinds of step that complete (R101). -/
theorem step_eq_next (ht : step s = .next t) :
    (s.input.rst = false ∧ SessionStep s t) ∨ (s.input.rst = true ∧ ResetStep s t) := by
  cases hrst : s.input.rst
  case false => exact .inl ⟨rfl, .of_next hrst ht⟩
  case true => exact .inr ⟨rfl, .of_next hrst ht⟩

end AnyState

/-! ## What the next registers depend on (R213, R221) -/

namespace Reference

variable {s s' : State}

theorem follower_congr (w : FrameWord) (hf : s.follower = s'.follower) (hrun : s.input.run = s'.input.run)
    (hws : s.wsS = s'.wsS) (hrise : s.rise = s'.rise) (hfall : s.fall = s'.fall)
    (hcount : s.fifo.count = s'.fifo.count) : follower s w = follower s' w := by
  simp only [follower, hf, hrun, hws, hrise, hfall, hcount]

/-- In a shift state the follower reads neither WS nor the FIFO (R155). -/
theorem follower_congr_of_shifting (w w' : FrameWord) (hshift : s.shifting = true) (hf : s.follower = s'.follower)
    (hrun : s.input.run = s'.input.run) (hrise : s.rise = s'.rise) (hfall : s.fall = s'.fall) :
    follower s w = follower s' w' := by
  rw [State.shifting, hf, Bool.or_eq_true, beq_iff_eq, beq_iff_eq] at hshift
  rcases hshift with hfsm | hfsm <;> simp only [follower, hf, hfsm, hrun, hrise, hfall]

/-- In a waiting state the follower reads no edge of BCLK (R155). -/
theorem follower_congr_of_waiting (w : FrameWord) (hshift : s.shifting = false) (hf : s.follower = s'.follower)
    (hrun : s.input.run = s'.input.run) (hws : s.wsS = s'.wsS) (hcount : s.fifo.count = s'.fifo.count) :
    follower s w = follower s' w := by
  rw [State.shifting, hf] at hshift
  cases hfsm : s'.follower.fsm
  case awl | awh => simp only [follower, hf, hfsm, hrun, hws, hcount]
  case sl | sr => simp [hfsm] at hshift

/-- The assembler reads `in_byte` only where it accepts it (R191). -/
theorem assembler_congr (ha : s.assembler = s'.assembler) (heo : s.input.inEos = s'.input.inEos)
    (hacc : s.accept = s'.accept) (hbyte : s.accept = true → s.input.inByte = s'.input.inByte) :
    assembler s = assembler s' := by
  cases hs : s.accept
  case false => simp [assembler, ← hacc, hs, ha, heo]
  case true => simp [assembler, ← hacc, hs, ha, heo, hbyte hs]

theorem fifo_congr_of_not_push (hq : s.fifo = s'.fifo) (hparams : s.params = s'.params) (hpush : s.push = false)
    (hpush' : s'.push = false) (hpop : s.pop = s'.pop) : fifo s = fifo s' := by
  simp [fifo, hq, hparams, hpush, hpush', hpop]

end Reference

/-- R191: where no byte is accepted, neither a register's next value nor the condition for a stop depends on `in_byte`. -/
theorem step_congr_of_not_accept {s : State} {i j : InputWord} (hrst : i.rst = j.rst) (hrun : i.run = j.run)
    (hbclk : i.bclk = j.bclk) (hws : i.ws = j.ws) (hiv : i.inValid = j.inValid) (heo : i.inEos = j.inEos)
    (hacc : (s.withInput i).accept = false) : step (s.withInput i) = step (s.withInput j) := by
  cases hi : (s.withInput i).input.rst
  case true =>
    have hj : (s.withInput j).input.rst = true := hrst ▸ hi
    rw [step_of_rst hi, step_of_rst hj]
    rfl
  case false =>
  have hj : (s.withInput j).input.rst = false := hrst ▸ hi
  have hready : (s.withInput i).inReady = (s.withInput j).inReady := by
    simp [State.inReady, State.bcnt3, State.fifoNf, hrst, heo]
  have hacceptEq : (s.withInput i).accept = (s.withInput j).accept := by simp [State.accept, hready, hiv]
  have hpop : (s.withInput i).pop = (s.withInput j).pop := by simp [State.pop, State.fifoNe, hrst, hrun]
  have hpush : (s.withInput i).push = false := State.push_eq_false_of_not_accept hacc
  have hpush' : (s.withInput j).push = false := State.push_eq_false_of_not_accept (hacceptEq ▸ hacc)
  have hslots : (s.withInput i).SlotsNamed ↔ (s.withInput j).SlotsNamed := by
    simp [State.SlotsNamed, hpush, hpush', hpop]
  by_cases hnamed : (s.withInput i).SlotsNamed
  case neg => rw [step_of_not_slotsNamed hi hnamed, step_of_not_slotsNamed hj (hslots.not.mp hnamed)]
  case pos =>
    have hfollower := fun w => Reference.follower_congr (s := s.withInput i) (s' := s.withInput j) w rfl hrun rfl rfl rfl rfl
    have hfifo := Reference.fifo_congr_of_not_push (s := s.withInput i) (s' := s.withInput j) rfl rfl hpush hpush' hpop
    have hassembler := Reference.assembler_congr (s := s.withInput i) (s' := s.withInput j) rfl heo hacceptEq
      fun h => absurd (hacc.symm.trans h) Bool.false_ne_true
    have hsync : (s.withInput i).syncNext = (s.withInput j).syncNext := by
      simp [State.syncNext, State.bclkS, hbclk, hws]
    rw [step_of_slotsNamed hi hnamed, step_of_slotsNamed hj (hslots.mp hnamed), hfollower, hfifo, hassembler, hsync]
    rfl

/-! ## The obligations on the operations (spec/30_encoding.md, spec/40_follower.md to spec/42_assembler.md) -/

/-- Settles O12: the frame of each table's operations, which is an update of one register group. -/
theorem operationsWriteOnlyTheirOwnRegisters : Obligations.OperationsWriteOnlyTheirOwnRegisters := fun _ _ _ h =>
  ⟨fun hfmt => exec_frame_of_follower hfmt h, fun hfmt => exec_frame_of_fifo hfmt h,
    fun hfmt => exec_frame_of_assembler hfmt h⟩

/-- Settles O11: STEP decodes the same words and merges what `exec` answers for them. -/
theorem stepComposesTheDecodedOperations : Obligations.StepComposesTheDecodedOperations := by
  intro s tf tq ta f a p hf ha hp htf htq hta
  rw [decode_layout_follower] at hf
  rw [decode_layout_assembler] at ha
  rw [decode_layout_fifo] at hp
  obtain rfl := Except.ok.inj hp
  obtain ⟨-, hffmt, -⟩ := word_of_decodeF hf
  obtain ⟨-, hafmt, -⟩ := word_of_decodeA ha
  obtain ⟨-, hpfmt, -⟩ := word_decodeP s.selP
  rw [← performFollower_eq_exec s hffmt] at htf
  rw [← performFifo_eq_exec s hpfmt] at htq
  rw [← performAssembler_eq_exec s hafmt] at hta
  simp only [exec, execStep, hf, ha, htf, htq, hta, State.merge_next]
  rfl

/-- Settles O10: the global selector word decodes to the operation `step` fetches, and every step that completes consumes one input
vector. -/
theorem stepPerformsTheDecodedGlobalOperation : Obligations.StepPerformsTheDecodedGlobalOperation := by
  intro s
  have hdecode : decode .global [BitVec.ofNat 8 s.selG.toNat] = .ok s.fetch := decode_layout_global s.selG
  refine ⟨fun i hi => ?_, fun hrst => ?_, fun hrst => ?_, fun t ht => ?_⟩
  · obtain rfl := Except.ok.inj (hdecode.symm.trans hi)
    rfl
  · rw [hdecode, fetch_of_rst hrst]
  · rw [hdecode, fetch_of_not_rst hrst]
  · rcases step_eq_next ht with ⟨-, hstep⟩ | ⟨-, hstep⟩
    · exact hstep.stimulus
    · exact hstep.stimulus

/-- Settles O14: the eight waiting operations answer the state they are given. -/
theorem waitingFollowerOperationsChangeNothing : Obligations.WaitingFollowerOperationsChangeNothing := fun _ =>
  ⟨fun _ => rfl, fun _ => rfl, fun _ => rfl, fun _ => rfl, fun _ => rfl, fun _ => rfl, fun _ => rfl, fun _ => rfl⟩

/-- Settles O15: both operations load the head, which exists where `rd_ptr` names a slot. -/
theorem popOperationsLoadTheHead : Obligations.PopOperationsLoadTheHead := fun _ =>
  ⟨fun hptr => ⟨fun _ => withHead_of_lt _ hptr, fun _ => withHead_of_lt _ hptr⟩,
    fun hptr => ⟨fun _ => withHead_of_not_lt _ hptr.not_gt, fun _ => withHead_of_not_lt _ hptr.not_gt⟩⟩

/-- Settles O16: each operation writes one update of the follower's registers. -/
theorem movingFollowerOperationsWriteTheirRegisters : Obligations.MovingFollowerOperationsWriteTheirRegisters :=
  fun _ => ⟨fun _ => rfl, fun _ => rfl, fun _ => rfl, fun _ => rfl, fun _ => rfl, fun _ => rfl, fun _ => rfl, fun _ => rfl⟩

/-- Settles O17: the two appending operations write one slot of the storage and need it to exist. -/
theorem fifoOperationsMoveThePointers : Obligations.FifoOperationsMoveThePointers := by
  intro s
  refine ⟨rfl, rfl, fun hptr => ⟨s.fifo.mem.write s.fifo.wrPtr s.word, Memory.read_write_same _ _ _,
    fun p hp => Memory.read_write_other _ _ hp, withPushed_of_lt _ hptr, withPushed_of_lt _ hptr⟩, fun hptr => ?_⟩
  exact ⟨withPushed_of_not_lt _ hptr.not_gt, withPushed_of_not_lt _ hptr.not_gt⟩

/-- Settles O18: an accepted byte goes to the carry register that `bcnt` names. -/
theorem assemblerOperationsPackBytes : Obligations.AssemblerOperationsPackBytes := by
  intro s
  have haccept : ∀ x, exec (.aAccept x) s = .next (s.setAssembler { s.assembler.countByte with
      carry := s.assembler.carry.set s.assembler.bcnt s.input.inByte, bcnt := s.assembler.bcnt + 1 }) := fun _ => rfl
  refine ⟨fun _ => rfl, fun _ => rfl, rfl, fun _ => rfl, rfl, fun x hbcnt => ?_, fun x hbcnt => ?_, fun x hbcnt => ?_⟩
  · rw [haccept, hbcnt]; rfl
  · rw [haccept, hbcnt]; rfl
  · rw [haccept, hbcnt]; rfl

/-- Settles O30: STEP's selected operations compute the reference description. -/
theorem selectorDrivenStepEqualsTheStateMachine : Obligations.SelectorDrivenStepEqualsTheStateMachine :=
  fun _ hrst hrd hwr => execStep_eq_reference hrst hrd hwr

/-! ## The obligations on what a step leaves unchanged -/

/-- Settles O35: neither kind of step writes the parameters. -/
theorem stepsKeepTheParameters : Obligations.StepsKeepTheParameters := by
  intro s t ht
  rcases step_eq_next ht with ⟨-, hstep⟩ | ⟨-, hstep⟩
  · exact hstep.params
  · exact hstep.params

/-- Settles O38: a session step writes the storage only where it pushes, and a reset step does not write it. -/
theorem slotsAreWrittenOnlyByAPush : Obligations.SlotsAreWrittenOnlyByAPush := by
  intro s t ht p hp
  rcases step_eq_next ht with ⟨-, hstep⟩ | ⟨-, hstep⟩
  · cases hpush : s.push
    case false => rw [hstep.mem_of_not_push hpush]
    case true =>
      have hother : p ≠ s.fifo.wrPtr := fun heq => hp ⟨hpush, heq⟩
      rw [hstep.mem_of_push hpush, Memory.read_write_other _ _ hother]
  · rw [hstep.fifo]; rfl

/-- Settles O39: a packed input vector differs in `in_byte` alone. -/
theorem unacceptedByteHasNoEffect : Obligations.UnacceptedByteHasNoEffect := by
  intro s rst run bclk ws inValid inEos b c hacc
  apply step_congr_of_not_accept _ _ _ _ _ _ hacc <;> simp

end Sys2Proof.Machine

/-! SUPPORT. The moves of the follower (R133 to R150), from which every fact about its next registers follows by cases, and the invariant of the
block (R56 to R60), which every step keeps. -/

namespace Sys2Proof.Machine

/-! ## Where no bit is presented -/

namespace State

variable {s : State}

theorem shifting_iff : s.shifting = true ↔ s.follower.fsm = .sl ∨ s.follower.fsm = .sr := by
  simp [shifting]

theorem presentStep_eq_false_of_not_shifting (hshift : s.shifting = false) : s.presentStep = false := by
  simp [presentStep, hshift]

theorem presentStep_eq_false_of_waitFall (hphase : s.follower.phase = .waitFall) : s.presentStep = false := by
  simp [presentStep, hphase]

theorem presentStep_eq_false_of_not_run (hrun : s.input.run = false) : s.presentStep = false := by
  simp [presentStep, hrun]

theorem presentStep_eq_false_of_not_rise (hrise : s.rise = false) : s.presentStep = false := by
  simp [presentStep, hrise]

theorem presentStep_eq_false_of_fsm_awl (hfsm : s.follower.fsm = .awl) : s.presentStep = false :=
  presentStep_eq_false_of_not_shifting (by simp [shifting, hfsm])

theorem presentStep_eq_false_of_fsm_awh (hfsm : s.follower.fsm = .awh) : s.presentStep = false :=
  presentStep_eq_false_of_not_shifting (by simp [shifting, hfsm])

end State

/-! ## The moves of the follower -/

namespace Reference

variable {s : State} (w : FrameWord)

/-- What a follower step with `rst = 0` can do, `w` being the head of the FIFO and `f` the follower's next registers. -/
inductive FollowerMove (s : State) (w : FrameWord) (f : Follower) : Prop
  /-- F_HOLD and the waits (R133, R134, R137, R139, R141, R144, R146, R148). -/
  | stayed (hpop : s.pop = false) (hpresent : s.presentStep = false) (hf : f = s.follower)
  /-- AWL_POP and AWL_POP_START (R135, R136). -/
  | popped (hpop : s.pop = true) (hf : f = s.follower.load w ∨ f = (s.follower.load w).startChannel .sl)
  /-- AWL_START (R138). -/
  | leftStarted (hfsm : s.follower.fsm = .awl) (hvalid : s.follower.frameValid = true)
      (hf : f = s.follower.startChannel .sl)
  /-- SL_PRESENT and SR_PRESENT (R140, R147). -/
  | presented (hpresent : s.presentStep = true) (hf : f = s.follower.present s.presentBit)
  /-- SL_NEXT and SR_NEXT (R142, R149). -/
  | bitDone (hshift : s.shifting = true) (hphase : s.follower.phase = .waitFall) (hidx : s.follower.idx ≠ 0)
      (hf : f = s.follower.nextBit)
  /-- SL_LAST (R143). -/
  | leftEnded (hfsm : s.follower.fsm = .sl) (hphase : s.follower.phase = .waitFall) (hidx : s.follower.idx = 0)
      (hf : f = s.follower.leaveWord .awh)
  /-- AWH_START (R145). -/
  | rightStarted (hfsm : s.follower.fsm = .awh) (hf : f = s.follower.startChannel .sr)
  /-- SR_LAST (R150). -/
  | rightEnded (hfsm : s.follower.fsm = .sr) (hphase : s.follower.phase = .waitFall) (hidx : s.follower.idx = 0)
      (hf : f = (s.follower.leaveWord .awl).frameDone)

theorem follower_move_awl (hrst : s.input.rst = false) (hrun : s.input.run = true) (hfsm : s.follower.fsm = .awl) :
    FollowerMove s w (follower s w) := by
  have hpresent := State.presentStep_eq_false_of_fsm_awl hfsm
  cases hfv : s.follower.frameValid
  case true =>
    rw [follower_of_awl_held w hrun hfsm hfv]
    split_ifs
    · exact .stayed (State.pop_eq_false_of_frameValid hfv) hpresent rfl
    · exact .leftStarted hfsm hfv rfl
  case false =>
  cases hne : s.fifoNe
  case false =>
    rw [follower_of_awl_starved w hrun hfsm hfv hne]
    exact .stayed (State.pop_eq_false_of_count_eq_zero (State.fifoNe_eq_false_iff.mp hne)) hpresent rfl
  case true =>
    have hpop := State.pop_iff.mpr ⟨hrst, hrun, hfsm, hfv, State.fifoNe_iff.mp hne⟩
    rw [follower_of_awl_pop w hrun hfsm hfv hne]
    split_ifs
    · exact .popped hpop (.inl rfl)
    · exact .popped hpop (.inr rfl)

theorem follower_move_awh (hrun : s.input.run = true) (hfsm : s.follower.fsm = .awh) :
    FollowerMove s w (follower s w) := by
  rw [follower_of_awh w hrun hfsm]
  split_ifs
  · exact .rightStarted hfsm rfl
  · exact .stayed (State.pop_eq_false_of_fsm_ne_awl (by simp [hfsm])) (State.presentStep_eq_false_of_fsm_awh hfsm) rfl

/-- In WaitRise the two shift states differ in the bit presented only (R139, R140, R146, R147). -/
theorem follower_of_waitRise (hrun : s.input.run = true) (hshift : s.follower.fsm = .sl ∨ s.follower.fsm = .sr)
    (hphase : s.follower.phase = .waitRise) :
    follower s w = if s.rise then s.follower.present s.presentBit else s.follower := by
  rcases hshift with hfsm | hfsm
  · have hbit : s.presentBit = s.leftBit := by simp [State.presentBit, hfsm]
    rw [follower_of_sl_waitRise w hrun hfsm hphase, hbit]
  · have hbit : s.presentBit = s.rightBit := by simp [State.presentBit, hfsm]
    rw [follower_of_sr_waitRise w hrun hfsm hphase, hbit]

theorem follower_move_shifting (hrst : s.input.rst = false) (hrun : s.input.run = true)
    (hshift : s.follower.fsm = .sl ∨ s.follower.fsm = .sr) : FollowerMove s w (follower s w) := by
  have hpop : s.pop = false :=
    State.pop_eq_false_of_fsm_ne_awl fun hfsm => by simp [hfsm] at hshift
  cases hphase : s.follower.phase
  case waitRise =>
    rw [follower_of_waitRise w hrun hshift hphase]
    split_ifs with hrise
    · exact .presented (State.presentStep_iff.mpr ⟨hrst, hrun, hshift, hphase, hrise⟩) rfl
    · exact .stayed hpop (State.presentStep_eq_false_of_not_rise (Bool.eq_false_iff.mpr hrise)) rfl
  case waitFall =>
  have hpresent := State.presentStep_eq_false_of_waitFall hphase
  have hnext (hiz : ¬s.idxZero = true) : FollowerMove s w s.follower.nextBit :=
    .bitDone (State.shifting_iff.mpr hshift) hphase (fun hidx => hiz (State.idxZero_iff.mpr hidx)) rfl
  rcases hshift with hfsm | hfsm
  · rw [follower_of_sl_waitFall w hrun hfsm hphase]
    split_ifs with hfall hiz
    · exact .leftEnded hfsm hphase (State.idxZero_iff.mp hiz) rfl
    · exact hnext hiz
    · exact .stayed hpop hpresent rfl
  · rw [follower_of_sr_waitFall w hrun hfsm hphase]
    split_ifs with hfall hiz
    · exact .rightEnded hfsm hphase (State.idxZero_iff.mp hiz) rfl
    · exact hnext hiz
    · exact .stayed hpop hpresent rfl

theorem follower_move (hrst : s.input.rst = false) : FollowerMove s w (follower s w) := by
  cases hrun : s.input.run
  case false =>
    exact .stayed (State.pop_eq_false_of_not_run hrun) (State.presentStep_eq_false_of_not_run hrun)
      (follower_of_not_run w hrun)
  case true =>
  cases hfsm : s.follower.fsm
  case awl => exact follower_move_awl w hrst hrun hfsm
  case sl => exact follower_move_shifting w hrst hrun (.inl hfsm)
  case awh => exact follower_move_awh w hrun hfsm
  case sr => exact follower_move_shifting w hrst hrun (.inr hfsm)

end Reference

/-! ## The follower's part of the invariant (R56, R57) -/

/-- Outside AwaitWordSelectLow a frame is held, and in the waiting states `phase` is 0. -/
structure Follower.Sound (f : Follower) : Prop where
  frame_held : f.fsm ≠ .awl → f.frameValid = true
  phase_clear : f.fsm = .awl ∨ f.fsm = .awh → f.phase = .waitRise

theorem State.Inv.follower_sound {s : State} (hs : s.Inv) : s.follower.Sound := ⟨hs.frame_held, hs.phase_clear⟩

namespace Follower.Sound

variable {f : Follower}

theorem reset : Follower.reset.Sound := ⟨fun h => absurd rfl h, fun _ => rfl⟩

/-- A frame just loaded is held in any state. -/
theorem load (hf : f.Sound) (w : FrameWord) : (f.load w).Sound := ⟨fun _ => rfl, hf.phase_clear⟩

theorem startChannel (hvalid : f.frameValid = true) (st : Fsm) : (f.startChannel st).Sound :=
  ⟨fun _ => hvalid, fun _ => rfl⟩

theorem present (hf : f.Sound) (hfsm : f.fsm = .sl ∨ f.fsm = .sr) (b : Bool) : (f.present b).Sound where
  frame_held := hf.frame_held
  phase_clear hwait := by rcases hfsm with hfsm | hfsm <;> simp [hfsm] at hwait

theorem nextBit (hf : f.Sound) : f.nextBit.Sound := ⟨hf.frame_held, fun _ => rfl⟩

theorem leaveWord (hvalid : f.frameValid = true) (st : Fsm) : (f.leaveWord st).Sound :=
  ⟨fun _ => hvalid, fun _ => rfl⟩

theorem frameDone : (f.leaveWord .awl).frameDone.Sound := ⟨fun h => absurd rfl h, fun _ => rfl⟩

end Follower.Sound

theorem Reference.follower_sound {s : State} (w : FrameWord) (hrst : s.input.rst = false) (hs : s.follower.Sound) :
    (Reference.follower s w).Sound := by
  cases follower_move w hrst with
  | stayed _ _ hf => exact hf ▸ hs
  | popped _ hf =>
    rcases hf with hf | hf
    · exact hf ▸ hs.load w
    · exact hf ▸ .startChannel rfl .sl
  | leftStarted _ hvalid hf => exact hf ▸ .startChannel hvalid .sl
  | presented hpresent hf =>
    obtain ⟨-, -, hfsm, -⟩ := State.presentStep_iff.mp hpresent
    exact hf ▸ hs.present hfsm _
  | bitDone _ _ _ hf => exact hf ▸ hs.nextBit
  | leftEnded hfsm _ _ hf => exact hf ▸ .leaveWord (hs.frame_held (by simp [hfsm])) .awh
  | rightStarted hfsm hf => exact hf ▸ .startChannel (hs.frame_held (by simp [hfsm])) .sr
  | rightEnded _ _ _ hf => exact hf ▸ .frameDone

/-! ## The assembler's part of the invariant (R59) -/

/-- No byte is held once end of stream was seen, and none is accepted then. -/
theorem Reference.assembler_bcnt_of_eosSeen {s : State} (hs : s.assembler.eosSeen = true → s.assembler.bcnt = 0)
    (hes : (Reference.assembler s).eosSeen = true) : (Reference.assembler s).bcnt = 0 := by
  cases hold : s.assembler.eosSeen
  case true => rw [assembler_of_eosSeen hold, hs hold]
  case false =>
    have heo : s.input.inEos = true := by simpa [assembler_eosSeen, hold] using hes
    rw [assembler_of_inEos hold heo]

/-! ## Every step keeps the invariant -/

theorem SessionStep.inv {s t : State} (hstep : SessionStep s t) (hrst : s.input.rst = false) (hs : s.Inv) : t.Inv := by
  have hsound : t.follower.Sound := hstep.follower ▸ Reference.follower_sound _ hrst hs.follower_sound
  exact
    { params_wf := hstep.params ▸ hs.params_wf
      bsync_length := by simp [hstep.sync, hstep.params, State.syncNext, hs.bsync_length]
      wsync_length := by simp [hstep.sync, hstep.params, State.syncNext, hs.wsync_length]
      frame_held := hsound.frame_held
      phase_clear := hsound.phase_clear
      eos_clears := hstep.assembler ▸ Reference.assembler_bcnt_of_eosSeen hs.eos_clears
      fifo_inv := hstep.fifo_inv hs.fifo_inv }

theorem ResetStep.inv {s t : State} (hstep : ResetStep s t) (hs : s.Inv) : t.Inv := by
  have hsound : t.follower.Sound := hstep.follower ▸ Follower.Sound.reset
  exact
    { params_wf := hstep.params ▸ hs.params_wf
      bsync_length := by simp [hstep.sync, hstep.params, Sync.reset]
      wsync_length := by simp [hstep.sync, hstep.params, Sync.reset]
      frame_held := hsound.frame_held
      phase_clear := hsound.phase_clear
      eos_clears := fun h => by simp [hstep.assembler, Assembler.reset] at h
      fifo_inv := hstep.fifo_inv hs.fifo_inv }

theorem freshWith_inv {p : Params} (is : List InputWord) (hp : p.wellFormed = true) : (freshWith p is).Inv where
  params_wf := hp
  bsync_length := List.length_replicate
  wsync_length := List.length_replicate
  frame_held := Follower.Sound.reset.frame_held
  phase_clear := Follower.Sound.reset.phase_clear
  eos_clears := fun h => Bool.noConfusion h
  fifo_inv := Fifo.inv_reset (params_wellFormed_iff.mp hp).1

/-! ## The obligations on the invariant (spec/10_state.md) and on the queue (spec/41_fifo.md) -/

/-- Settles O32: part by part, for a session step and for a reset step. -/
theorem everyStepKeepsTheInvariant : Obligations.EveryStepKeepsTheInvariant := by
  intro s t hs ht
  rcases step_eq_next ht with ⟨hrst, hstep⟩ | ⟨-, hstep⟩
  · exact hstep.inv hrst hs
  · exact hstep.inv hs

/-- Settles O31: the reset values meet each part. -/
theorem resetStateMeetsTheInvariant : Obligations.ResetStateMeetsTheInvariant := fun _ is hp => freshWith_inv is hp

/-- Settles O33: the invariant has both pointers name slots. -/
theorem invariantStatesAlwaysStep : Obligations.InvariantStatesAlwaysStep := by
  intro s hs
  obtain ⟨t, ht, -⟩ := hs.exists_step
  exact ⟨t, ht⟩

/-- Settles O36: the FIFO's part of a step is a pop, which takes the first live entry, and then a push, which appends after the last. -/
theorem ringBufferIsAQueue : Obligations.RingBufferIsAQueue := by
  intro s hs hrst
  obtain ⟨t, ht, hstep⟩ := hs.exists_sessionStep hrst
  have hqueue := hstep.entries hs.fifo_inv
  have hsplit := State.entries_eq_poppedNow_append hs.fifo_inv
  refine ⟨t, ht, fun hpop => ?_, fun hpop => ⟨s.fifoAfterPop.live s.params.fifoDepth, ?_, ?_⟩⟩
  · simpa [State.poppedNow, hpop] using hqueue.symm
  · simpa [State.poppedNow, hpop, hstep.frame_of_pop hrst hpop] using hsplit
  · rw [hsplit, List.append_assoc] at hqueue
    exact (List.append_cancel_left hqueue).symm

/-- Settles O7: the invariant puts stage `N - 1` in each chain. -/
theorem edgesAreChangesOfTheLastStage : Obligations.EdgesAreChangesOfTheLastStage := by
  intro s hs
  obtain ⟨-, hN⟩ := params_wellFormed_iff.mp hs.params_wf
  have hlast : ∀ chain : List Bool, chain.length = s.params.syncStages →
      chain[s.params.syncStages - 1]? = some (chain.getD (s.params.syncStages - 1) false) := by
    intro chain hlen
    rw [List.getD_eq_getElem _ _ (by omega), List.getElem?_eq_getElem (by omega)]
  refine ⟨hlast _ hs.bsync_length, hlast _ hs.wsync_length, ?_, ?_, rise_fall_exclusive s⟩
  · simp [State.rise]
  · simp [State.fall]

end Sys2Proof.Machine

/-! SUPPORT. Sessions from reset, one step after the other, and the byte stream along them (R72 to R74, R198): what the record of the first `n` steps
has to do with the registers after them. -/

namespace Sys2Proof.Machine

/-! ## A session as its steps -/

/-- `t` is the state after `n` session steps from `s`, each from a state with the invariant, and a record of `n + 1` steps is one of `n` with
what its last step adds. -/
inductive SessionRun (s : State) : Nat → State → Prop
  | start (hs : s.Inv) : SessionRun s 0 s
  | snoc {n : Nat} {u t : State} (run : SessionRun s n u) (hu : u.Inv) (hrst : u.input.rst = false) (hstep : SessionStep u t)
      (hrecord : ∀ (α : Type) (obs : State → List α), record obs (n + 1) s = record obs n s ++ obs u) :
      SessionRun s (n + 1) t

theorem SessionRun.inv {s t : State} {n : Nat} (run : SessionRun s n t) : t.Inv := by
  cases run with
  | start hs => exact hs
  | snoc _ hu hrst hstep _ => exact hstep.inv hrst hu

/-- A session step in front of a session. -/
theorem SessionRun.cons {s u t : State} {n : Nat} (hs : s.Inv) (hrst : s.input.rst = false) (hu : step s = .next u)
    (run : SessionRun u n t) : SessionRun s (n + 1) t := by
  induction run with
  | start _ =>
    exact .snoc (.start hs) hs hrst (.of_next hrst hu) fun α obs => by rw [record_succ obs hu]; simp [record]
  | snoc _ hinv hrst' hstep hrecord ih =>
    refine .snoc ih hinv hrst' hstep fun α obs => ?_
    rw [record_succ obs hu, record_succ obs hu, hrecord, List.append_assoc]

theorem SessionRun.of_runFor {s t : State} {n : Nat} (hs : s.Inv) (hin : s.InSession n) (hrun : runFor n s = .next t) :
    SessionRun s n t := by
  induction n generalizing s with
  | zero =>
    obtain rfl := Host.Outcome.next.inj hrun
    exact .start hs
  | succ n ih =>
    obtain ⟨u, hu, hrest⟩ := runFor_succ_eq_next hrun
    have hstep : SessionStep s u := .of_next hin.rst hu
    exact .cons hs hin.rst hu (ih (hstep.inv hin.rst hs) (hin.of_sessionStep hstep) hrest)

/-- A session from reset, as the obligations state it. -/
theorem SessionRun.of_fresh {p : Params} {is : List InputWord} {n : Nat} {t : State} (hp : p.wellFormed = true)
    (hsession : noReset is = true) (hn : n ≤ is.length) (hrun : runFor n (freshWith p is) = .next t) :
    SessionRun (freshWith p is) n t :=
  .of_runFor (freshWith_inv is hp) ⟨hsession, hn⟩ hrun

/-! ## The byte stream (R72 to R74, R198) -/

/-- The accepted bytes of the frame that is not complete yet: `carry[0]` to `carry[bcnt - 1]` (R45, R46). -/
def Assembler.held (a : Assembler) : List Byte := [a.carry.c0, a.carry.c1, a.carry.c2].take a.bcnt.toNat

theorem Assembler.length_held (a : Assembler) : a.held.length = a.bcnt.toNat := by
  simp only [held, List.length_take, List.length_cons, List.length_nil]
  omega

/-- Whole groups of four bytes make their frames, whatever bytes follow. -/
theorem framesOf_append {full : List Byte} (rest : List Byte) (h : 4 ∣ full.length) :
    framesOf (full ++ rest) = framesOf full ++ framesOf rest := by
  induction full using framesOf.induct with
  | case1 b0 b1 b2 b3 full ih =>
    simp only [List.length_cons] at h
    simp [framesOf, ih (by omega)]
  | case2 full hshort =>
    match full, h, hshort with
    | [], _, _ => rfl
    | [_], h, _ | [_, _], h, _ | [_, _, _], h, _ => simp at h
    | b0 :: b1 :: b2 :: b3 :: full, _, hshort => exact absurd rfl (hshort b0 b1 b2 b3 full)

theorem framesOf_eq_nil {bytes : List Byte} (h : bytes.length < 4) : framesOf bytes = [] := by
  match bytes, h with
  | [], _ | [_], _ | [_, _], _ | [_, _, _], _ => rfl
  | _ :: _ :: _ :: _ :: _, h => simp only [List.length_cons] at h; omega

/-- The assembler `a` has made `frames` of `bytes`: until end of stream it holds the bytes after the last whole group, and from then on it holds
none and the bytes left over are discarded. -/
inductive Packed (a : Assembler) (bytes : List Byte) (frames : List FrameWord) : Prop
  | opened (hes : a.eosSeen = false) (full : List Byte) (hfull : 4 ∣ full.length) (hbytes : bytes = full ++ a.held)
      (hframes : frames = framesOf full)
  | closed (hes : a.eosSeen = true) (hbcnt : a.bcnt = 0) (hframes : frames = framesOf bytes)

theorem Packed.frames_eq {a : Assembler} {bytes : List Byte} {frames : List FrameWord} (h : Packed a bytes frames) :
    frames = framesOf bytes := by
  cases h with
  | opened _ full hfull hbytes hframes =>
    have hshort : a.held.length < 4 := by rw [a.length_held]; omega
    rw [hframes, hbytes, framesOf_append _ hfull, framesOf_eq_nil hshort, List.append_nil]
  | closed _ _ hframes => exact hframes

/-- A byte of a frame but the fourth joins those held (R195). -/
theorem Assembler.held_accept (a : Assembler) (b : Byte) (hbcnt : a.bcnt ≠ 3) :
    Assembler.held { a.countByte with carry := a.carry.set a.bcnt b, bcnt := a.bcnt + 1 } = a.held ++ [b] := by
  have values : ∀ k : BitVec 2, k ≠ 3 → k = 0 ∨ k = 1 ∨ k = 2 := by decide
  rcases values a.bcnt hbcnt with h | h | h <;> simp [held, h, Carry.set]

/-- The fourth byte completes the frame `word` (R74, R196). -/
theorem framesOf_held_append {s : State} (hbcnt : s.assembler.bcnt = 3) :
    framesOf (s.assembler.held ++ [s.input.inByte]) = [s.word] := by
  simp [Assembler.held, hbcnt, framesOf, State.word]

section Packed

variable {u t : State} (hstep : SessionStep u t) {bytes : List Byte} {frames : List FrameWord}
include hstep

/-- A step that accepts no byte keeps what is held, or discards it at end of stream (R193). -/
theorem SessionStep.packed_of_not_accept (h : Packed u.assembler bytes frames) (hacc : u.accept = false) :
    Packed t.assembler bytes frames := by
  cases h with
  | closed hes hbcnt hframes =>
    rw [hstep.assembler, Reference.assembler_of_eosSeen hes]
    exact .closed hes hbcnt hframes
  | opened hes full hfull hbytes hframes =>
    cases heo : u.input.inEos
    case false =>
      rw [hstep.assembler_of_not_accept heo hacc]
      exact .opened hes full hfull hbytes hframes
    case true =>
      rw [hstep.assembler, Reference.assembler_of_inEos hes heo]
      exact .closed rfl rfl (Packed.opened hes full hfull hbytes hframes).frames_eq

theorem SessionStep.packed_of_accept (h : Packed u.assembler bytes frames) (hacc : u.accept = true) :
    Packed t.assembler (bytes ++ [u.input.inByte]) (frames ++ u.pushedNow) := by
  cases h with
  | closed hes _ _ => simp [State.accept, State.inReady_of_eosSeen hes] at hacc
  | opened hes full hfull hbytes hframes =>
    by_cases hbcnt : u.assembler.bcnt = 3
    case neg =>
      have hpushedNow : u.pushedNow = [] := by
        simp [State.pushedNow, State.push_eq_false_of_bcnt_ne_three hbcnt]
      rw [hstep.assembler_of_accept hacc hbcnt, hpushedNow, List.append_nil]
      refine .opened hes full hfull ?_ hframes
      rw [Assembler.held_accept _ _ hbcnt, hbytes, List.append_assoc]
    case pos =>
      have hpush := State.push_iff.mpr ⟨hacc, hbcnt⟩
      have hpushedNow : u.pushedNow = [u.word] := by simp [State.pushedNow, hpush]
      have hwhole : 4 ∣ (full ++ (u.assembler.held ++ [u.input.inByte])).length := by
        have hheld : u.assembler.held.length = 3 := by rw [Assembler.length_held, hbcnt]; rfl
        simp only [List.length_append, hheld, List.length_singleton]
        omega
      rw [hstep.assembler_of_push hpush, hpushedNow]
      refine .opened hes _ hwhole ?_ ?_
      · simp [hbytes, Assembler.held]
      · rw [framesOf_append _ hfull, framesOf_held_append hbcnt, hframes]

theorem SessionStep.packed (h : Packed u.assembler bytes frames) :
    Packed t.assembler (bytes ++ u.acceptedNow) (frames ++ u.pushedNow) := by
  cases hacc : u.accept
  case false =>
    have hpush := State.push_eq_false_of_not_accept hacc
    simpa [State.acceptedNow, State.pushedNow, hacc, hpush] using hstep.packed_of_not_accept h hacc
  case true => simpa [State.acceptedNow, hacc] using hstep.packed_of_accept h hacc

end Packed

/-- Along a session that begins with nothing held. -/
theorem SessionRun.packed {s t : State} {n : Nat} (run : SessionRun s n t) (hes : s.assembler.eosSeen = false)
    (hbcnt : s.assembler.bcnt = 0) :
    Packed t.assembler (record State.acceptedNow n s) (record State.pushedNow n s) := by
  induction run with
  | start _ => exact .opened hes [] (by simp) (by simp [record, Assembler.held, hbcnt]) rfl
  | snoc _ _ _ hstep hrecord ih =>
    rw [hrecord, hrecord]
    exact hstep.packed ih

/-- Settles O40: the whole groups of four are pushed as their frames, and the bytes after them are those held. -/
theorem pushedFramesAreTheAcceptedBytes : Obligations.PushedFramesAreTheAcceptedBytes := by
  intro p is n t hp hsession hn hrun
  have hpacked := (SessionRun.of_fresh hp hsession hn hrun).packed rfl rfl
  refine ⟨hpacked.frames_eq, fun hopen => ?_, fun hclosed => ?_⟩
  · cases hpacked with
    | closed hes _ _ => simp [hopen] at hes
    | opened _ full hfull hbytes _ =>
      obtain ⟨k, hk⟩ := hfull
      have hheld := t.assembler.length_held
      have hlength := congrArg List.length hbytes
      rw [List.length_append, hk, hheld] at hlength
      refine ⟨by omega, fun j hj => ?_⟩
      have hgroups : (record State.acceptedNow n (freshWith p is)).length / 4 * 4 = full.length := by omega
      rw [hgroups, hbytes, List.getElem?_append_right (Nat.le_add_right _ _), Nat.add_sub_cancel_left, Assembler.held,
        List.getElem?_take_of_lt hj]
  · cases hpacked with
    | opened hes _ _ _ _ => simp [hclosed] at hes
    | closed _ hbcnt _ => exact hbcnt

end Sys2Proof.Machine

/-! SUPPORT. The serial stream along a session (R60, R61, R75, R151): every bit of a popped frame has been presented or is still to come, and every
popped frame has been sent or is held. -/

namespace Sys2Proof.Machine

/-! ## The follower after a pop and after a present step -/

section Follower

variable {s t : State} (hstep : SessionStep s t)
include hstep

theorem SessionStep.follower_of_pop (hpop : s.pop = true) :
    t.follower = s.follower.load (s.fifo.mem.read s.fifo.rdPtr) ∨
      t.follower = (s.follower.load (s.fifo.mem.read s.fifo.rdPtr)).startChannel .sl := by
  obtain ⟨-, hrun, hfsm, hvalid, hcount⟩ := State.pop_iff.mp hpop
  rw [hstep.follower, Reference.follower_of_awl_pop _ hrun hfsm hvalid (State.fifoNe_iff.mpr hcount)]
  split_ifs
  · exact .inl rfl
  · exact .inr rfl

theorem SessionStep.follower_of_presentStep (hpresent : s.presentStep = true) :
    t.follower = s.follower.present s.presentBit := by
  obtain ⟨-, hrun, hfsm, hphase, hrise⟩ := State.presentStep_iff.mp hpresent
  rw [hstep.follower, Reference.follower_of_waitRise _ hrun hfsm hphase, if_pos hrise]

theorem SessionStep.frame_of_not_pop (hrst : s.input.rst = false) (hpop : s.pop = false) :
    t.follower.frame = s.follower.frame := by
  simp [hstep.follower, Reference.follower_frame _ hrst, hpop]

end Follower

/-! ## How many bits of the held frame are to come (R60, R151) -/

theorem State.bitsLeft_le (s : State) : s.bitsLeft ≤ 32 := by
  have hidx := s.follower.idx.isLt
  unfold bitsLeft
  dsimp only
  split_ifs
  · cases s.follower.fsm <;> cases s.follower.phase <;> dsimp only <;> omega
  · omega

section BitsLeft

variable {s t : State} (hstep : SessionStep s t)
include hstep

theorem SessionStep.bitsLeft_of_pop (hpop : s.pop = true) : s.bitsLeft = 0 ∧ t.bitsLeft = 32 := by
  obtain ⟨-, -, hfsm, hvalid, -⟩ := State.pop_iff.mp hpop
  refine ⟨by simp [State.bitsLeft, hvalid], ?_⟩
  rcases hstep.follower_of_pop hpop with hf | hf <;> simp [State.bitsLeft, hf, hfsm]

/-- The bit presented, `frame[16 + idx]` or `frame[idx]`, is the first of those to come. -/
theorem SessionStep.bitsLeft_of_presentStep (hs : s.Inv) (hpresent : s.presentStep = true) :
    s.bitsLeft = t.bitsLeft + 1 ∧ s.presentBit = s.follower.frame.getLsbD t.bitsLeft := by
  obtain ⟨-, -, hfsm, hphase, -⟩ := State.presentStep_iff.mp hpresent
  have hf := hstep.follower_of_presentStep hpresent
  rcases hfsm with hfsm | hfsm
  · have hvalid := hs.frame_held (by simp [hfsm])
    have hleft : t.bitsLeft = 16 + s.follower.idx.toNat := by simp [State.bitsLeft, hf, hvalid, hfsm]
    rw [hleft]
    exact ⟨by simp [State.bitsLeft, hvalid, hfsm, hphase, Nat.add_assoc], by simp [State.presentBit, hfsm, State.leftBit]⟩
  · have hvalid := hs.frame_held (by simp [hfsm])
    have hleft : t.bitsLeft = s.follower.idx.toNat := by simp [State.bitsLeft, hf, hvalid, hfsm]
    rw [hleft]
    exact ⟨by simp [State.bitsLeft, hvalid, hfsm, hphase], by simp [State.presentBit, hfsm, State.rightBit]⟩

/-- A step that neither pops nor presents leaves as many bits to come. -/
theorem SessionStep.bitsLeft_of_quiet (hs : s.Inv) (hrst : s.input.rst = false) (hpop : s.pop = false)
    (hpresent : s.presentStep = false) : t.bitsLeft = s.bitsLeft := by
  cases Reference.follower_move (s.fifo.mem.read s.fifo.rdPtr) hrst with
  | stayed _ _ hf => simp only [State.bitsLeft, hstep.follower, hf]
  | popped hpop' _ => simp [hpop'] at hpop
  | leftStarted hfsm hvalid hf => simp [State.bitsLeft, hstep.follower, hf, hfsm, hvalid]
  | presented hpresent' _ => simp [hpresent'] at hpresent
  | bitDone hshift hphase hidx hf =>
    have hpred : (s.follower.idx - 1).toNat + 1 = s.follower.idx.toNat := by bv_omega
    rcases State.shifting_iff.mp hshift with hfsm | hfsm <;>
      simp only [State.bitsLeft, hstep.follower, hf, hfsm, hphase, hpred, Follower.nextBit_fsm, Follower.nextBit_phase,
        Follower.nextBit_idx, Follower.nextBit_frameValid]
  | leftEnded hfsm hphase hidx hf => simp [State.bitsLeft, hstep.follower, hf, hfsm, hphase, hidx]
  | rightStarted hfsm hf =>
    have hvalid := hs.frame_held (by simp [hfsm])
    simp [State.bitsLeft, hstep.follower, hf, hfsm, hvalid]
  | rightEnded hfsm hphase hidx hf => simp [State.bitsLeft, hstep.follower, hf, hfsm, hphase, hidx]

end BitsLeft

/-! ## The bits of the held frame that are to come -/

/-- The bits of the held frame that are still to be presented, in the order they go out. -/
def State.bitsToCome (s : State) : List Bool := (serialBits s.follower.frame).drop (32 - s.bitsLeft)

@[simp] theorem length_serialBits (w : FrameWord) : (serialBits w).length = 32 := by
  simp [serialBits]

theorem length_flatMap_serialBits (ws : List FrameWord) : (ws.flatMap serialBits).length = 32 * ws.length := by
  simp [List.length_flatMap, Nat.mul_comm]

theorem State.length_bitsToCome (s : State) : s.bitsToCome.length = s.bitsLeft := by
  have hle := s.bitsLeft_le
  rw [bitsToCome, List.length_drop, length_serialBits]
  omega

/-- With `k + 1` bits of a frame to go, bit `k` is the next. -/
theorem drop_serialBits (w : FrameWord) {k : Nat} (hk : k < 32) :
    (serialBits w).drop (31 - k) = w.getLsbD k :: (serialBits w).drop (32 - k) := by
  have hpos : 31 - k < (serialBits w).length := by rw [length_serialBits]; omega
  have hbit : (serialBits w)[31 - k] = w.getLsbD k := by
    have hk' : 31 - (31 - k) = k := by omega
    simp only [serialBits, List.getElem_map, List.getElem_range, hk']
  have hnext : 31 - k + 1 = 32 - k := by omega
  rw [List.drop_eq_getElem_cons hpos, hbit, hnext]

/-- R151 for one step: what was to come and what is popped is what is presented and what is to come then, in order. -/
theorem SessionStep.bitsToCome {s t : State} (hstep : SessionStep s t) (hs : s.Inv) (hrst : s.input.rst = false) :
    s.bitsToCome ++ s.poppedNow.flatMap serialBits = s.presentedNow ++ t.bitsToCome := by
  cases hpop : s.pop
  case true =>
    have hpresent := State.presentStep_eq_false_of_pop hpop
    obtain ⟨hbefore, hafter⟩ := hstep.bitsLeft_of_pop hpop
    have hframe := hstep.frame_of_pop hrst hpop
    simp [State.bitsToCome, State.poppedNow, State.presentedNow, hpop, hpresent, hbefore, hafter, hframe]
  case false =>
  have hframe := hstep.frame_of_not_pop hrst hpop
  cases hpresent : s.presentStep
  case true =>
    obtain ⟨hleft, hbit⟩ := hstep.bitsLeft_of_presentStep hs hpresent
    have hlt : t.bitsLeft < 32 := by have hle := s.bitsLeft_le; omega
    have hnext := drop_serialBits s.follower.frame hlt
    simp [State.bitsToCome, State.poppedNow, State.presentedNow, hpop, hpresent, hleft, hbit, hframe, hnext]
  case false =>
    have hleft := hstep.bitsLeft_of_quiet hs hrst hpop hpresent
    simp [State.bitsToCome, State.poppedNow, State.presentedNow, hpop, hpresent, hleft, hframe]

/-- R151 along a session that begins with no frame held. -/
theorem SessionRun.presented_append_bitsToCome {s t : State} {n : Nat} (run : SessionRun s n t)
    (hvalid : s.follower.frameValid = false) :
    record State.presentedNow n s ++ t.bitsToCome = (record State.poppedNow n s).flatMap serialBits := by
  induction run with
  | start _ => simp [record, State.bitsToCome, State.bitsLeft, hvalid]
  | snoc _ hu hrst hstep hrecord ih =>
    rw [hrecord, hrecord, List.flatMap_append, ← ih, List.append_assoc, List.append_assoc, hstep.bitsToCome hu hrst]

/-! ## The popped frames, sent or held (R61) -/

/-- `frame_valid` as a number. -/
def Follower.heldFrames (f : Follower) : Count32 := if f.frameValid then 1 else 0

theorem SessionStep.frames_sent_or_held {s t : State} (hstep : SessionStep s t) (hs : s.Inv) (hrst : s.input.rst = false) :
    t.follower.framesTx + t.follower.heldFrames =
      s.follower.framesTx + s.follower.heldFrames + BitVec.ofNat 32 s.poppedNow.length := by
  have hnone : s.pop = false → BitVec.ofNat 32 s.poppedNow.length = 0 := fun hpop => by simp [State.poppedNow, hpop]
  rw [hstep.follower]
  cases Reference.follower_event (s.fifo.mem.read s.fifo.rdPtr) hrst with
  | popped hpop _ hvalid _ htx =>
    obtain ⟨-, -, -, hfree, -⟩ := State.pop_iff.mp hpop
    simp [Follower.heldFrames, hvalid, htx, hfree, State.poppedNow, hpop]
  | presented hpresent hf =>
    simp [hf, Follower.heldFrames, hnone (State.pop_eq_false_of_presentStep hpresent)]
  | rightWordEnded hend hfsm hf =>
    have hheld := hs.frame_held (by simp [hfsm])
    simp [hf, Follower.heldFrames, hheld, hnone (State.pop_eq_false_of_wordEnd hend)]
  | kept hpop _ _ _ hvalid _ htx => simp [Follower.heldFrames, hvalid, htx, hnone hpop]

/-- R61 along a session that begins with no frame sent or held. -/
theorem SessionRun.frames_sent_or_held {s t : State} {n : Nat} (run : SessionRun s n t)
    (hvalid : s.follower.frameValid = false) (htx : s.follower.framesTx = 0) :
    BitVec.ofNat 32 (record State.poppedNow n s).length = t.follower.framesTx + t.follower.heldFrames := by
  induction run with
  | start _ => simp [record, Follower.heldFrames, hvalid, htx]
  | snoc _ hu hrst hstep hrecord ih =>
    rw [hrecord, List.length_append, BitVec.ofNat_add, ih, hstep.frames_sent_or_held hu hrst]

/-! ## The obligations on the serial stream (spec/40_follower.md, spec/10_state.md) -/

/-- Settles O43: the presented bits are those of the popped frames without the `bitsLeft` last ones. -/
theorem presentedBitsAreThePoppedFramesBits : Obligations.PresentedBitsAreThePoppedFramesBits := by
  intro p is n t hp hsession hn hrun
  have hbits := (SessionRun.of_fresh hp hsession hn hrun).presented_append_bitsToCome rfl
  have hlength := congrArg List.length hbits
  rw [List.length_append, t.length_bitsToCome, length_flatMap_serialBits] at hlength
  refine ⟨t.bitsLeft_le, ?_⟩
  rw [← hbits, List.take_left' (by omega)]

/-- Settles O46: a pop holds one more frame, and a right word end sends the one held. -/
theorem poppedFramesAreSentOrHeld : Obligations.PoppedFramesAreSentOrHeld := by
  intro p is n t hp hsession hn hrun
  exact (SessionRun.of_fresh hp hsession hn hrun).frames_sent_or_held rfl rfl

/-- Settles O44: presented bits begin the popped frames' bits (R151), popped frames begin the pushed ones (R81), and those are the frames of the
accepted bytes (R198). -/
theorem bytesReachTheWireInOrder : Obligations.BytesReachTheWireInOrder := by
  intro p is n hp hsession hn
  obtain ⟨t, hrun⟩ := noReachableStateStops p is n hp
  have hpushed := poppedFramesArePushedFramesInOrder p is n t hp hsession hn hrun
  obtain ⟨hframes, -⟩ := pushedFramesAreTheAcceptedBytes p is n t hp hsession hn hrun
  have hbits := (SessionRun.of_fresh hp hsession hn hrun).presented_append_bitsToCome rfl
  rw [← hframes, hpushed, List.flatMap_append, ← hbits]
  exact ⟨t.bitsToCome ++ t.entries.flatMap serialBits, (List.append_assoc _ _ _).symm⟩

end Sys2Proof.Machine

/-! SUPPORT. The pins along a session (R242, R260), and what two steps in a row do at the end of a word and at the end of a run (R226, R251 to
R253). -/

namespace Sys2Proof.Machine

/-! ## The synchroniser chains along a session -/

/-- Stage `k` of a chain after `n` steps of a session: the pin's level `k + 1` steps before, and before that the reset zero. -/
def stageLevel (pin : InputWord → Bool) (is : List InputWord) (n k : Nat) : Bool :=
  if k < n then (is[n - 1 - k]?).any pin else false

/-- Every stage of a chain of `c` stages shows the level it has after `n` steps. -/
def ChainShows (pin : InputWord → Bool) (is : List InputWord) (n c : Nat) (chain : List Bool) : Prop :=
  chain.length = c ∧ ∀ k, k < c → chain[k]? = some (stageLevel pin is n k)

theorem chainShows_reset (pin : InputWord → Bool) (is : List InputWord) (c : Nat) :
    ChainShows pin is 0 c (List.replicate c false) :=
  ⟨List.length_replicate, fun _ hk => List.getElem?_replicate_of_lt hk⟩

theorem ChainShows.shift {pin : InputWord → Bool} {is : List InputWord} {n c : Nat} {chain : List Bool} {i : InputWord}
    (h : ChainShows pin is n c chain) (hi : is[n]? = some i) : ChainShows pin is (n + 1) c (shiftChain (pin i) chain) := by
  obtain ⟨hlen, hstage⟩ := h
  refine ⟨by rw [shiftChain_length, hlen], fun k hk => ?_⟩
  rw [shiftChain_getElem? _ _ _ (hlen ▸ hk)]
  cases k with
  | zero => simp [stageLevel, hi]
  | succ k =>
    have hindex : n + 1 - 1 - (k + 1) = n - 1 - k := by omega
    rw [List.getElem?_cons_succ, hstage k (by omega), stageLevel, stageLevel, hindex]
    simp only [Nat.add_lt_add_iff_right]

/-- The last stage of a chain, read as `bclk_s` and `ws_s` are (R51). -/
theorem ChainShows.getD_last {pin : InputWord → Bool} {is : List InputWord} {n c : Nat} {chain : List Bool}
    (h : ChainShows pin is n c chain) (hc : 1 ≤ c) : chain.getD (c - 1) false = stageLevel pin is n (c - 1) := by
  obtain ⟨-, hstage⟩ := h
  rw [List.getD_eq_getElem?_getD, hstage (c - 1) (by omega), Option.getD_some]

theorem SessionRun.params {s t : State} {n : Nat} (run : SessionRun s n t) : t.params = s.params := by
  induction run with
  | start _ => rfl
  | snoc _ _ _ hstep _ ih => rw [hstep.params, ih]

/-- After `n` steps the input vectors listed are those but the first `n`. -/
theorem SessionRun.stimulus {s t : State} {n : Nat} (run : SessionRun s n t) : t.stimulus = s.stimulus.drop n := by
  induction run with
  | start _ => rfl
  | snoc _ _ _ hstep _ ih => rw [hstep.stimulus, ih, List.tail_drop]

theorem SessionRun.chains {s t : State} {n : Nat} (run : SessionRun s n t) (hn : n ≤ s.stimulus.length)
    (hb : s.sync.bsync = List.replicate s.params.syncStages false)
    (hw : s.sync.wsync = List.replicate s.params.syncStages false) :
    ChainShows InputWord.bclk s.stimulus n s.params.syncStages t.sync.bsync ∧
      ChainShows InputWord.ws s.stimulus n s.params.syncStages t.sync.wsync := by
  induction run with
  | start _ => exact ⟨hb ▸ chainShows_reset _ _ _, hw ▸ chainShows_reset _ _ _⟩
  | @snoc n u t run _ _ hstep _ ih =>
    obtain ⟨hbsync, hwsync⟩ := ih (by omega)
    have hlisted : u.stimulus = s.stimulus[n] :: s.stimulus.drop (n + 1) := by
      rw [run.stimulus, List.drop_eq_getElem_cons hn]
    have hi : s.stimulus[n]? = some u.input := by
      rw [State.input_of_stimulus hlisted, List.getElem?_eq_getElem hn]
    rw [hstep.sync]
    exact ⟨hbsync.shift hi, hwsync.shift hi⟩

/-- Settles O48: the last stage of each chain after `n` steps, for `n` below `N` and from `N` on. -/
theorem pinReachesTheLogicAfterNSteps : Obligations.PinReachesTheLogicAfterNSteps := by
  intro p is n t hp hsession hn hrun
  have run := SessionRun.of_fresh hp hsession hn hrun
  obtain ⟨-, hN⟩ := params_wellFormed_iff.mp hp
  have hparams : t.params = p := run.params
  obtain ⟨hbsync, hwsync⟩ := run.chains hn rfl rfl
  have hbclk : t.bclkS = stageLevel InputWord.bclk is n (p.syncStages - 1) := by
    rw [State.bclkS, hparams]; exact hbsync.getD_last hN
  have hws : t.wsS = stageLevel InputWord.ws is n (p.syncStages - 1) := by
    rw [State.wsS, hparams]; exact hwsync.getD_last hN
  rw [hbclk, hws]
  refine ⟨fun hbefore => ?_, fun i hafter hi => ?_⟩
  · have hstage : ¬p.syncStages - 1 < n := by omega
    simp [stageLevel, hstage]
  · have hstage : p.syncStages - 1 < n := by omega
    have hindex : n - 1 - (p.syncStages - 1) = n - p.syncStages := by omega
    simp [stageLevel, hstage, hindex, hi]

/-! ## The follower after a word end (R143, R150) -/

section WordEnd

variable {s t : State} (hstep : SessionStep s t) (hend : s.wordEnd = true)
include hstep hend

theorem SessionStep.follower_of_leftWordEnd (hfsm : s.follower.fsm = .sl) : t.follower = s.follower.leaveWord .awh := by
  obtain ⟨-, hrun, -, hphase, hfall, hiz⟩ := State.wordEnd_iff.mp hend
  rw [hstep.follower, Reference.follower_of_sl_waitFall _ hrun hfsm hphase, if_pos hfall, if_pos hiz]

theorem SessionStep.follower_of_rightWordEnd (hfsm : s.follower.fsm = .sr) :
    t.follower = (s.follower.leaveWord .awl).frameDone := by
  obtain ⟨-, hrun, -, hphase, hfall, hiz⟩ := State.wordEnd_iff.mp hend
  rw [hstep.follower, Reference.follower_of_sr_waitFall _ hrun hfsm hphase, if_pos hfall, if_pos hiz]

/-- After a word end the follower waits for WS. -/
theorem SessionStep.shifting_of_wordEnd : t.shifting = false := by
  obtain ⟨-, -, hfsm, -⟩ := State.wordEnd_iff.mp hend
  rcases hfsm with hfsm | hfsm
  · simp [State.shifting, hstep.follower_of_leftWordEnd hend hfsm]
  · simp [State.shifting, hstep.follower_of_rightWordEnd hend hfsm]

end WordEnd

theorem SessionStep.sd_of_not_present {s t : State} (hstep : SessionStep s t) (hrst : s.input.rst = false)
    (hpresent : s.presentStep = false) : t.follower.sd = s.follower.sd := by
  simp [hstep.follower, Reference.follower_sd _ hrst, hpresent]

/-- An edge is not remembered: in the step after a rise the previous sample is 1 (R40, R51). -/
theorem SessionStep.rise_of_rise {s t : State} (hstep : SessionStep s t) (hrise : s.rise = true) : t.rise = false := by
  have hsample : s.bclkS = true := by
    rw [State.rise, Bool.and_eq_true] at hrise
    exact hrise.2
  simp [State.rise, hstep.sync, State.syncNext, hsample]

/-! ## Registers after a step that does nothing for them -/

theorem SessionStep.fifo_of_idle {s t : State} (hstep : SessionStep s t) (hpush : s.push = false) (hpop : s.pop = false) :
    t.fifo = s.fifo := by
  simp [hstep.fifo, Reference.fifo, hpush, hpop]

/-- At the boundary with nothing queued the follower keeps its registers, with `run` at 0 or 1 (R133, R134). -/
theorem SessionStep.follower_of_starved {s t : State} (hstep : SessionStep s t) (hstarved : s.starved = true) :
    t.follower = s.follower := by
  obtain ⟨hfsm, hvalid, hcount⟩ := State.starved_iff.mp hstarved
  rw [hstep.follower]
  cases hrun : s.input.run
  case false => exact Reference.follower_of_not_run _ hrun
  case true => exact Reference.follower_of_awl_starved _ hrun hfsm hvalid (State.fifoNe_eq_false_iff.mpr hcount)

theorem State.txComplete_iff {s : State} : s.txComplete = true ↔
    s.assembler.eosSeen = true ∧ s.fifo.count = 0 ∧ s.follower.fsm = .awl ∧ s.follower.frameValid = false := by
  simp [txComplete, sessionDone, and_assoc]

/-! ## The obligations on control (spec/60_exceptions.md, spec/70_reset_and_hazards.md) -/

/-- Settles O51: the closed byte port pushes nothing and the empty FIFO pops nothing. -/
theorem completedTransmissionStaysComplete : Obligations.CompletedTransmissionStaysComplete := by
  intro s hs hrst hcomplete
  obtain ⟨hes, hcount, hfsm, hvalid⟩ := State.txComplete_iff.mp hcomplete
  obtain ⟨t, ht, hstep⟩ := hs.exists_sessionStep hrst
  have hpush := State.push_eq_false_of_not_accept
    (State.accept_eq_false_of_not_inReady (State.inReady_of_eosSeen hes))
  have hfollower := hstep.follower_of_starved (State.starved_iff.mpr ⟨hfsm, hvalid, hcount⟩)
  have hfifo := hstep.fifo_of_idle hpush (State.pop_eq_false_of_count_eq_zero hcount)
  refine ⟨t, ht, State.txComplete_iff.mpr ?_, hfollower, hfifo⟩
  rw [hfollower, hfifo]
  exact ⟨hstep.eosSeen_of_eosSeen hes, hcount, hfsm, hvalid⟩

/-- Settles O52: the signals that the follower reads are functions of its side's registers, and those that the assembler reads of the byte port and
the count. -/
theorem onlyTheFifoCouplesTheSubBlocks : Obligations.OnlyTheFifoCouplesTheSubBlocks := by
  intro s s' hs hs' hparams hrst hrst'
  obtain ⟨t, ht, hstep⟩ := hs.exists_sessionStep hrst
  obtain ⟨t', ht', hstep'⟩ := hs'.exists_sessionStep hrst'
  refine ⟨t, t', ht, ht', fun hf hsync hq hrun => ?_, fun ha hcount hiv heo hbyte => ?_⟩
  · have hbclk : s.bclkS = s'.bclkS := by rw [State.bclkS, State.bclkS, hsync, hparams]
    have hws : s.wsS = s'.wsS := by rw [State.wsS, State.wsS, hsync, hparams]
    have hrise : s.rise = s'.rise := by rw [State.rise, State.rise, hsync, hbclk]
    have hfall : s.fall = s'.fall := by rw [State.fall, State.fall, hsync, hbclk]
    rw [hstep.follower, hstep'.follower, hq,
      Reference.follower_congr _ hf hrun hws hrise hfall (congrArg Fifo.count hq)]
  · have hready : s.inReady = s'.inReady := by
      simp only [State.inReady, State.bcnt3, State.fifoNf, hrst, hrst', ha, hcount, heo, hparams]
    have hacc : s.accept = s'.accept := by rw [State.accept, State.accept, hready, hiv]
    rw [hstep.assembler, hstep'.assembler, Reference.assembler_congr ha heo hacc fun _ => hbyte]

/-- Settles O53: a shift state reads the edges of BCLK and `idx`, a waiting state WS, the count and the head. -/
theorem followerReadsOnlyWhatItsStateWaitsFor : Obligations.FollowerReadsOnlyWhatItsStateWaitsFor := by
  intro s s' hs hs' hrst hrst' hf hrun
  obtain ⟨t, ht, hstep⟩ := hs.exists_sessionStep hrst
  obtain ⟨t', ht', hstep'⟩ := hs'.exists_sessionStep hrst'
  refine ⟨t, t', ht, ht', fun hshift hbclk hprev => ?_, fun hshift hws hq => ?_⟩
  · have hrise : s.rise = s'.rise := by rw [State.rise, State.rise, hprev, hbclk]
    have hfall : s.fall = s'.fall := by rw [State.fall, State.fall, hprev, hbclk]
    rw [hstep.follower, hstep'.follower]
    exact Reference.follower_congr_of_shifting _ _ hshift hf hrun hrise hfall
  · rw [hstep.follower, hstep'.follower, hq]
    exact Reference.follower_congr_of_waiting _ hshift hf hrun hws (congrArg Fifo.count hq)

/-- Settles O54: only a shift state presents, and the rise seen after the word end leaves `bclk_prev` at 1. -/
theorem riseRightAfterAWordEndIsLost : Obligations.RiseRightAfterAWordEndIsLost := by
  intro s hs hend
  obtain ⟨hrst, -⟩ := State.wordEnd_iff.mp hend
  obtain ⟨t, ht, hstep⟩ := hs.exists_sessionStep hrst
  obtain ⟨u, hu, hsession, -⟩ := (hstep.inv hrst hs).exists_step
  have hshift := hstep.shifting_of_wordEnd hend
  have hpresent := State.presentStep_eq_false_of_not_shifting hshift
  refine ⟨t, ht, hshift, hpresent, u, hu, fun hrst' => ?_, fun hrise hrst' => ?_⟩
  · rw [(hsession hrst').sd_of_not_present hrst' hpresent,
      hstep.sd_of_not_present hrst (State.presentStep_eq_false_of_wordEnd hend)]
  · have hlost := (hsession hrst').rise_of_rise hrise
    exact ⟨hlost, State.presentStep_eq_false_of_not_rise hlost⟩

/-- Settles O55: SL_LAST, then AWH_START. -/
theorem rightChannelIsReadyTwoStepsAfterTheLeft : Obligations.RightChannelIsReadyTwoStepsAfterTheLeft := by
  intro s hs hend hfsm
  obtain ⟨hrst, -⟩ := State.wordEnd_iff.mp hend
  obtain ⟨t, ht, hstep⟩ := hs.exists_sessionStep hrst
  have hfollower := hstep.follower_of_leftWordEnd hend hfsm
  refine ⟨t, ht, fun hrst' hrun' hws' => ?_⟩
  obtain ⟨u, hu, hstep'⟩ := (hstep.inv hrst hs).exists_sessionStep hrst'
  refine ⟨u, hu, ?_⟩
  rw [hstep'.follower, Reference.follower_of_awh _ hrun' (by simp [hfollower]), if_pos hws', hfollower]
  rfl

/-- Settles O56: SR_LAST, which holds no frame any more, then AWL_POP_START. -/
theorem leftChannelIsReadyTwoStepsAfterTheRight : Obligations.LeftChannelIsReadyTwoStepsAfterTheRight := by
  intro s hs hend hfsm
  obtain ⟨hrst, -⟩ := State.wordEnd_iff.mp hend
  obtain ⟨t, ht, hstep⟩ := hs.exists_sessionStep hrst
  have hfollower := hstep.follower_of_rightWordEnd hend hfsm
  refine ⟨t, ht, fun hrst' hrun' hws' hcount => ?_⟩
  obtain ⟨u, hu, hstep'⟩ := (hstep.inv hrst hs).exists_sessionStep hrst'
  have hnext : u.follower = (t.follower.load (t.fifo.mem.read t.fifo.rdPtr)).startChannel .sl := by
    rw [hstep'.follower, Reference.follower_of_awl_pop _ hrun' (by simp [hfollower]) (by simp [hfollower])
      (State.fifoNe_iff.mpr hcount), hws']
    rfl
  refine ⟨u, hu, ?_⟩
  rw [hnext]
  exact ⟨rfl, rfl, rfl, rfl, rfl⟩

/-- Settles O49: the registers that the outputs show have their reset values (R240), and the byte port is closed only by the inputs. -/
theorem outputsAfterAReset : Obligations.OutputsAfterAReset := by
  intro s hrst
  obtain ⟨t, ht, hreset⟩ := exists_resetStep hrst
  have hf := hreset.follower
  have hq := hreset.fifo
  have ha := hreset.assembler
  refine ⟨t, ht, congrArg Follower.sd hf, congrArg Follower.framesTx hf, congrArg Assembler.bytesRx ha,
    congrArg Fifo.count hq, State.starved_iff.mpr ?_, ?_, fun hrst' heo' => State.inReady_iff.mpr ?_⟩
  · rw [hf, hq]; exact ⟨rfl, rfl, rfl⟩
  · exact State.sessionDone_eq_false_of_eosSeen_eq_false (congrArg Assembler.eosSeen ha)
  · rw [ha]; exact ⟨hrst', rfl, heo', .inl (by decide)⟩

end Sys2Proof.Machine
